-- ==== Sys2Proof/Word.lean ====
section
/-! DEFINITION. The machine's data types: bytes, 32-bit words, `s16` coefficients, polynomials and polyvecs
(spec/00_scope.md R12 to R15, spec/10_state.md R43, R44). Types only; every function over them is in Machine/. -/

namespace Sys2Proof

/-- A BMEM byte, a `u8` (R14, R46). -/
abbrev Byte := BitVec 8

/-- A 32-bit host data word, command word or CSR (R32, R120). -/
abbrev Word := BitVec 32

/-- A coefficient, an `s16`: 16 bits read as two's complement (R13, R17). -/
abbrev Coef := BitVec 16

/-- A polynomial value: its coefficients, number 0 first (R15); every polynomial the machine stores has 256. -/
abbrev Poly := List Coef

/-- A vector of k = 3 (R15, R44): a polyvec, a matrix of rows, or three results. -/
structure Vec3 (α : Type) where
  v0 : α
  v1 : α
  v2 : α
  deriving DecidableEq, Repr

end Sys2Proof
end

