-- ==== Sys2Proof/Syntax.lean ====
section
/-! DEFINITION. The 34 commands of spec/30_encoding.md R130, one constructor each, with exactly the fields R130 says
the opcode uses. A field an opcode ignores (R122, R126) has no place here; the word itself stays in CSR.CMD. -/

namespace Sys2Proof

/-- A register field PD, PA or PB: the index of a polynomial register (R121, R122). -/
abbrev PReg := BitVec 5

/-- CSEL, the condition selector of the conditional moves (R127); its two reserved values are no value here. -/
inductive CSel where
  /-- 00, suffix `.F1`: the condition is CTFLAG[0] = 1. -/
  | f1
  /-- 01, suffix `.F0`: the condition is CTFLAG[0] = 0. -/
  | f0
  deriving DecidableEq, Repr

/-- The commands. `v` is the V bit where the opcode has a V form (R124). -/
inductive Instr where
  -- control (40_control.md)
  | nop
  -- field unit (41_field.md)
  | montr
  | barr
  | fqmul
  | bflyf
  | bflyi
  | basemul
  -- NTT unit (42_ntt.md)
  | ntt (v : Bool) (pd pa : PReg)
  | intt (v : Bool) (pd pa : PReg)
  -- polynomial arithmetic (43_poly.md)
  | padd (v : Bool) (pd pa pb : PReg)
  | psub (v : Bool) (pd pa pb : PReg)
  | preduce (v : Bool) (pd pa : PReg)
  | ptomont (v : Bool) (pd pa : PReg)
  | pbasemul (v : Bool) (pd pa pb : PReg)
  | pvacc (pd pa pb : PReg)
  -- serialisation (44_serial.md)
  | tobytes (v : Bool) (pa : PReg)
  | frombytes (v : Bool) (pd : PReg)
  | compress10 (v : Bool) (pa : PReg)
  | decompress10 (v : Bool) (pd : PReg)
  | compress4 (v : Bool) (pa : PReg)
  | decompress4 (v : Bool) (pd : PReg)
  | frommsg (pd : PReg)
  | tomsg (pa : PReg)
  -- sampling (45_sample.md)
  | cbd2 (v : Bool) (pd : PReg)
  | getnoise (v : Bool) (pd : PReg) (nonce : BitVec 8)
  | genentry (pd : PReg)
  | genmatrix (pd : PReg) (t : Bool)
  -- constant-time utilities (46_ct.md)
  | verify
  | cmovb (csel : CSel)
  | cmov16 (csel : CSel)
  | pcmov (v : Bool) (pd pa : PReg) (csel : CSel)
  -- KEM engine (47_kem.md)
  | keygen
  | encaps
  | decaps
  deriving DecidableEq, Repr

end Sys2Proof
end

