-- ==== Sys2Proof/Machine/Spans.lean ====
section
/-! DEFINITION. Which polynomial registers a command uses, reads and writes, as pairs (first register, span)
(spec/40_control.md R202, spec/70_reset_and_hazards.md R463 and R464). -/

namespace Sys2Proof

/-- The span of a register field: 3 registers when V = 1, 1 otherwise (R124, R202). -/
def vSpan (v : Bool) : Nat := if v then 3 else 1

/-- The polynomial registers a command writes: the register part of the destination set W of R463. -/
def Instr.destRegs : Instr → List (Nat × Nat)
  | .nop | .montr | .barr | .fqmul | .bflyf | .bflyi | .basemul => []
  | .ntt v pd _ | .intt v pd _ | .preduce v pd _ | .ptomont v pd _ => [(pd.toNat, vSpan v)]
  | .padd v pd _ _ | .psub v pd _ _ | .pbasemul v pd _ _ => [(pd.toNat, vSpan v)]
  | .pvacc pd _ _ => [(pd.toNat, 1)]
  | .tobytes _ _ | .compress10 _ _ | .compress4 _ _ | .tomsg _ => []
  | .frombytes v pd | .decompress10 v pd | .decompress4 v pd | .cbd2 v pd => [(pd.toNat, vSpan v)]
  | .frommsg pd | .genentry pd => [(pd.toNat, 1)]
  | .getnoise v pd _ => [(pd.toNat, vSpan v)]
  | .genmatrix pd _ => [(pd.toNat, 9)]
  | .verify | .cmovb _ | .cmov16 _ => []
  | .pcmov v pd _ _ => [(pd.toNat, vSpan v)]
  | .keygen | .encaps | .decaps => []

/-- The polynomial registers a command reads ("reads" of R130; what R464 step 3 asks to be defined). -/
def Instr.sourceRegs : Instr → List (Nat × Nat)
  | .nop | .montr | .barr | .fqmul | .bflyf | .bflyi | .basemul => []
  | .ntt v _ pa | .intt v _ pa | .preduce v _ pa | .ptomont v _ pa => [(pa.toNat, vSpan v)]
  | .padd v _ pa pb | .psub v _ pa pb | .pbasemul v _ pa pb => [(pa.toNat, vSpan v), (pb.toNat, vSpan v)]
  | .pvacc _ pa pb => [(pa.toNat, 3), (pb.toNat, 3)]
  | .tobytes v pa | .compress10 v pa | .compress4 v pa => [(pa.toNat, vSpan v)]
  | .tomsg pa => [(pa.toNat, 1)]
  | .frombytes _ _ | .decompress10 _ _ | .decompress4 _ _ | .frommsg _ => []
  | .cbd2 _ _ | .getnoise _ _ _ | .genentry _ | .genmatrix _ _ => []
  | .verify | .cmovb _ | .cmov16 _ => []
  | .pcmov v pd pa _ => [(pd.toNat, vSpan v), (pa.toNat, vSpan v)]
  | .keygen | .encaps | .decaps => []

/-- UsedRegs(w) of R202: each used register field with its span. -/
def Instr.usedRegs (i : Instr) : List (Nat × Nat) := i.destRegs ++ i.sourceRegs

/-- The V bit of a command's word (R124): false where the opcode has no V form. -/
def Instr.vBit : Instr → Bool
  | .nop | .montr | .barr | .fqmul | .bflyf | .bflyi | .basemul => false
  | .ntt v _ _ | .intt v _ _ | .preduce v _ _ | .ptomont v _ _ => v
  | .padd v _ _ _ | .psub v _ _ _ | .pbasemul v _ _ _ => v
  | .pvacc _ _ _ => false
  | .tobytes v _ | .compress10 v _ | .compress4 v _ => v
  | .frombytes v _ | .decompress10 v _ | .decompress4 v _ | .cbd2 v _ => v
  | .frommsg _ | .tomsg _ | .genentry _ | .genmatrix _ _ => false
  | .getnoise v _ _ => v
  | .verify | .cmovb _ | .cmov16 _ => false
  | .pcmov v _ _ _ => v
  | .keygen | .encaps | .decaps => false

end Sys2Proof
end

