-- ==== Sys2Proof/WellFormed.lean ====
section
/-! DEFINITION. When a decoded command is well formed: every used register field stays inside P0..P31, the static
check 2 of spec/40_control.md R202. A word may decode to a command that is not well formed: it is legal (R129) and
is rejected with PREG_RANGE. The legality checks of R131 leave no trace in `Instr`: an illegal word decodes to none. -/

namespace Sys2Proof

/-- A used register field r with span s stays inside the register file: r + s − 1 ≤ 31 (R202). -/
def spanOk (r : Nat × Nat) : Bool := r.1 + r.2 ≤ 32

/-- The register-range check of R202 on every used field. -/
def Instr.wf (i : Instr) : Bool := i.usedRegs.all spanOk

end Sys2Proof
end

