-- ==== Sys2Proof/Decode.lean ====
section
/-! DEFINITION. The decoder and the encoder of command words, from spec/30_encoding.md: the format of R121, the
opcode map of R130, the legality rules of R129 and R131, the assembler forms of R134. -/

namespace Sys2Proof

/-- Why a word is illegal (R131); each is ILLEGAL_CMD, code 1 (R421). -/
inductive DecodeError where
  /-- OP is none of the 34 values of R130. -/
  | unknownOp (op : BitVec 8)
  /-- V = 1 on an opcode whose "V ok" is no. -/
  | vNotAllowed (op : BitVec 8)
  /-- CSEL[1] = 1 on CMOVB, CMOV16 or PCMOV. -/
  | cselReserved (op : BitVec 8)
  deriving DecidableEq, Repr

/-! The fields of R121. -/

def opField (w : Word) : BitVec 8 := w.extractLsb' 0 8
def pdField (w : Word) : PReg := w.extractLsb' 8 5
def paField (w : Word) : PReg := w.extractLsb' 13 5
def pbField (w : Word) : PReg := w.extractLsb' 18 5
def vField (w : Word) : Bool := w.getLsbD 23
def immField (w : Word) : BitVec 8 := w.extractLsb' 24 8

/-- An opcode without a V form: V = 1 makes the word illegal (R124, R131). -/
def noV (w : Word) (i : Instr) : Except DecodeError Instr :=
  if vField w then .error (.vNotAllowed (opField w)) else .ok i

/-- The condition selector IMM8[1:0] (R126, R127): CSEL[1] = 1 is illegal, IMM8[7:2] are ignored. -/
def withCsel (w : Word) (f : CSel → Instr) : Except DecodeError Instr :=
  if (immField w).getLsbD 1 then .error (.cselReserved (opField w))
  else .ok (f (if (immField w).getLsbD 0 then .f0 else .f1))

/-- Decode a command word (R120, R130), rejecting by name; total on the 2^32 words. -/
def decode (w : Word) : Except DecodeError Instr :=
  let v := vField w
  let pd := pdField w
  let pa := paField w
  let pb := pbField w
  match (opField w).toNat with
  | 0x00 => noV w .nop
  | 0x01 => noV w .montr
  | 0x02 => noV w .barr
  | 0x03 => noV w .fqmul
  | 0x04 => noV w .bflyf
  | 0x05 => noV w .bflyi
  | 0x06 => noV w .basemul
  | 0x10 => .ok (.ntt v pd pa)
  | 0x11 => .ok (.intt v pd pa)
  | 0x12 => .ok (.padd v pd pa pb)
  | 0x13 => .ok (.psub v pd pa pb)
  | 0x14 => .ok (.preduce v pd pa)
  | 0x15 => .ok (.ptomont v pd pa)
  | 0x16 => .ok (.pbasemul v pd pa pb)
  | 0x17 => noV w (.pvacc pd pa pb)
  | 0x20 => .ok (.tobytes v pa)
  | 0x21 => .ok (.frombytes v pd)
  | 0x22 => .ok (.compress10 v pa)
  | 0x23 => .ok (.decompress10 v pd)
  | 0x24 => .ok (.compress4 v pa)
  | 0x25 => .ok (.decompress4 v pd)
  | 0x26 => noV w (.frommsg pd)
  | 0x27 => noV w (.tomsg pa)
  | 0x30 => .ok (.cbd2 v pd)
  | 0x31 => .ok (.getnoise v pd (immField w))
  | 0x32 => noV w (.genentry pd)
  | 0x33 => noV w (.genmatrix pd ((immField w).getLsbD 0))
  | 0x40 => noV w .verify
  | 0x41 => if v then .error (.vNotAllowed (opField w)) else withCsel w .cmovb
  | 0x42 => if v then .error (.vNotAllowed (opField w)) else withCsel w .cmov16
  | 0x43 => withCsel w (.pcmov v pd pa)
  | 0x50 => noV w .keygen
  | 0x51 => noV w .encaps
  | 0x52 => noV w .decaps
  | _ => .error (.unknownOp (opField w))

/-- The decoder on an instruction numbered as spec/opcode_table.json numbers it: bits `nbits`-1..0 of `w`, every
higher bit of the one 32-bit command word 0 (R120). -/
def decodeTableWord (nbits w : Nat) : Option Instr := (decode (BitVec.ofNat 32 (w % 2 ^ nbits))).toOption

/-! The encoder. -/

/-- The OP value of R130. -/
def Instr.opcode : Instr → BitVec 8
  | .nop => 0x00
  | .montr => 0x01
  | .barr => 0x02
  | .fqmul => 0x03
  | .bflyf => 0x04
  | .bflyi => 0x05
  | .basemul => 0x06
  | .ntt _ _ _ => 0x10
  | .intt _ _ _ => 0x11
  | .padd _ _ _ _ => 0x12
  | .psub _ _ _ _ => 0x13
  | .preduce _ _ _ => 0x14
  | .ptomont _ _ _ => 0x15
  | .pbasemul _ _ _ _ => 0x16
  | .pvacc _ _ _ => 0x17
  | .tobytes _ _ => 0x20
  | .frombytes _ _ => 0x21
  | .compress10 _ _ => 0x22
  | .decompress10 _ _ => 0x23
  | .compress4 _ _ => 0x24
  | .decompress4 _ _ => 0x25
  | .frommsg _ => 0x26
  | .tomsg _ => 0x27
  | .cbd2 _ _ => 0x30
  | .getnoise _ _ _ => 0x31
  | .genentry _ => 0x32
  | .genmatrix _ _ => 0x33
  | .verify => 0x40
  | .cmovb _ => 0x41
  | .cmov16 _ => 0x42
  | .pcmov _ _ _ _ => 0x43
  | .keygen => 0x50
  | .encaps => 0x51
  | .decaps => 0x52

/-- The word of R121's diagram: IMM8, V, PB, PA, PD, OP from bit 31 down. -/
def word (imm : BitVec 8) (v : Bool) (pb pa pd : PReg) (op : BitVec 8) : Word :=
  imm ++ (BitVec.ofBool v ++ (pb ++ (pa ++ (pd ++ op))))

/-- CSEL as IMM8 (R127, R134). -/
def CSel.bits : CSel → BitVec 8
  | .f1 => 0
  | .f0 => 1

/-- enc(X) of R135: the word of a command, ignored fields 0 (R134). -/
def encode (i : Instr) : Word :=
  let op := i.opcode
  match i with
  | .nop | .montr | .barr | .fqmul | .bflyf | .bflyi | .basemul => word 0 false 0 0 0 op
  | .ntt v pd pa | .intt v pd pa | .preduce v pd pa | .ptomont v pd pa => word 0 v 0 pa pd op
  | .padd v pd pa pb | .psub v pd pa pb | .pbasemul v pd pa pb => word 0 v pb pa pd op
  | .pvacc pd pa pb => word 0 false pb pa pd op
  | .tobytes v pa | .compress10 v pa | .compress4 v pa => word 0 v 0 pa 0 op
  | .frombytes v pd | .decompress10 v pd | .decompress4 v pd | .cbd2 v pd => word 0 v 0 0 pd op
  | .frommsg pd | .genentry pd => word 0 false 0 0 pd op
  | .tomsg pa => word 0 false 0 pa 0 op
  | .getnoise v pd nonce => word nonce v 0 0 pd op
  | .genmatrix pd t => word (if t then 1 else 0) false 0 0 pd op
  | .verify => word 0 false 0 0 0 op
  | .cmovb csel | .cmov16 csel => word csel.bits false 0 0 0 op
  | .pcmov v pd pa csel => word csel.bits v 0 pa pd op
  | .keygen | .encaps | .decaps => word 0 false 0 0 0 op

/-! The legality masks of R129, as the rows of R130 give them. -/

/-- One row of R130 with its legality check of R129: a word is legal for it when `w &&& mask = opcode`. -/
structure OpRow where
  op   : Word
  mask : Word
  deriving DecidableEq, Repr

/-- R129's four masks: no V form and no CSEL; a V form and no CSEL; CMOVB and CMOV16; PCMOV. -/
def opTable : List OpRow :=
  ([0x00, 0x01, 0x02, 0x03, 0x04, 0x05, 0x06, 0x17, 0x26, 0x27].map (OpRow.mk · 0x008000FF)) ++
  ([0x32, 0x33, 0x40, 0x50, 0x51, 0x52].map (OpRow.mk · 0x008000FF)) ++
  ([0x10, 0x11, 0x12, 0x13, 0x14, 0x15, 0x16].map (OpRow.mk · 0x000000FF)) ++
  ([0x20, 0x21, 0x22, 0x23, 0x24, 0x25, 0x30, 0x31].map (OpRow.mk · 0x000000FF)) ++
  ([0x41, 0x42].map (OpRow.mk · 0x028000FF)) ++
  [⟨0x43, 0x020000FF⟩]

/-- A word matches some row of R130 under its mask (R129). -/
def legal (w : Word) : Bool := opTable.any fun r => w &&& r.mask == r.op

/-- The bits of a word that decide which command it is: OP, V, and the fields R130 lists for the opcode (R122, R126); CSEL
is IMM8[1:0], T is IMM8[0]. -/
def Instr.usedBits : Instr → Word
  | .nop | .montr | .barr | .fqmul | .bflyf | .bflyi | .basemul => 0x008000FF
  | .ntt _ _ _ | .intt _ _ _ | .preduce _ _ _ | .ptomont _ _ _ => 0x0083FFFF
  | .padd _ _ _ _ | .psub _ _ _ _ | .pbasemul _ _ _ _ | .pvacc _ _ _ => 0x00FFFFFF
  | .tobytes _ _ | .compress10 _ _ | .compress4 _ _ | .tomsg _ => 0x0083E0FF
  | .frombytes _ _ | .decompress10 _ _ | .decompress4 _ _ | .frommsg _ | .cbd2 _ _ | .genentry _ => 0x00801FFF
  | .getnoise _ _ _ => 0xFF801FFF
  | .genmatrix _ _ => 0x01801FFF
  | .verify | .keygen | .encaps | .decaps => 0x008000FF
  | .cmovb _ | .cmov16 _ => 0x038000FF
  | .pcmov _ _ _ _ => 0x0383FFFF

/-! The assembler's spelling of a command (R134; not semantic, D47). -/

/-- `p0`..`p31` (R134). -/
def PReg.asm (r : PReg) : String := "p" ++ toString r.toNat

/-- `.V` sets V = 1 (R134). -/
def vAsm (v : Bool) : String := if v then ".V" else ""

/-- `.F1` and `.F0` (R127, R134). -/
def CSel.asm : CSel → String
  | .f1 => ".F1"
  | .f0 => ".F0"

/-- The operand list of a command line, in the order PD, PA, PB, IMM8 (R134). -/
def asmLine (head : String) (operands : List String) : String :=
  if operands.isEmpty then head else head ++ " " ++ String.intercalate ", " operands

/-- The command line of an instruction (R134). -/
def Instr.asm : Instr → String
  | .nop => "NOP"
  | .montr => "MONTR"
  | .barr => "BARR"
  | .fqmul => "FQMUL"
  | .bflyf => "BFLYF"
  | .bflyi => "BFLYI"
  | .basemul => "BASEMUL"
  | .ntt v pd pa => asmLine ("NTT" ++ vAsm v) [PReg.asm pd, PReg.asm pa]
  | .intt v pd pa => asmLine ("INTT" ++ vAsm v) [PReg.asm pd, PReg.asm pa]
  | .padd v pd pa pb => asmLine ("PADD" ++ vAsm v) [PReg.asm pd, PReg.asm pa, PReg.asm pb]
  | .psub v pd pa pb => asmLine ("PSUB" ++ vAsm v) [PReg.asm pd, PReg.asm pa, PReg.asm pb]
  | .preduce v pd pa => asmLine ("PREDUCE" ++ vAsm v) [PReg.asm pd, PReg.asm pa]
  | .ptomont v pd pa => asmLine ("PTOMONT" ++ vAsm v) [PReg.asm pd, PReg.asm pa]
  | .pbasemul v pd pa pb => asmLine ("PBASEMUL" ++ vAsm v) [PReg.asm pd, PReg.asm pa, PReg.asm pb]
  | .pvacc pd pa pb => asmLine "PVACC" [PReg.asm pd, PReg.asm pa, PReg.asm pb]
  | .tobytes v pa => asmLine ("TOBYTES" ++ vAsm v) [PReg.asm pa]
  | .frombytes v pd => asmLine ("FROMBYTES" ++ vAsm v) [PReg.asm pd]
  | .compress10 v pa => asmLine ("COMPRESS10" ++ vAsm v) [PReg.asm pa]
  | .decompress10 v pd => asmLine ("DECOMPRESS10" ++ vAsm v) [PReg.asm pd]
  | .compress4 v pa => asmLine ("COMPRESS4" ++ vAsm v) [PReg.asm pa]
  | .decompress4 v pd => asmLine ("DECOMPRESS4" ++ vAsm v) [PReg.asm pd]
  | .frommsg pd => asmLine "FROMMSG" [PReg.asm pd]
  | .tomsg pa => asmLine "TOMSG" [PReg.asm pa]
  | .cbd2 v pd => asmLine ("CBD2" ++ vAsm v) [PReg.asm pd]
  | .getnoise v pd nonce => asmLine ("GETNOISE" ++ vAsm v) [PReg.asm pd, "#" ++ toString nonce.toNat]
  | .genentry pd => asmLine "GENENTRY" [PReg.asm pd]
  | .genmatrix pd t => asmLine "GENMATRIX" [PReg.asm pd, if t then "#1" else "#0"]
  | .verify => "VERIFY"
  | .cmovb csel => "CMOVB" ++ csel.asm
  | .cmov16 csel => "CMOV16" ++ csel.asm
  | .pcmov v pd pa csel => asmLine ("PCMOV" ++ vAsm v ++ csel.asm) [PReg.asm pd, PReg.asm pa]
  | .keygen => "KEYGEN"
  | .encaps => "ENCAPS"
  | .decaps => "DECAPS"

end Sys2Proof
end

