-- ==== Sys2Proof/Config.lean ====
section
/-! DEFINITION. What is fixed for the machine: the parameters of spec/00_scope.md R8 to R10, the type of the hash
configuration (R11), and the parameters the spec leaves OPEN (D6, D40, D50), as constants without a body. -/

namespace Sys2Proof.Config

/-- n, the coefficients of a polynomial (R8). -/
abbrev n : Nat := 256

/-- q, the modulus (R8). -/
abbrev q : Nat := 3329

/-- NPREG, the polynomial registers P0..P31 (R10). -/
abbrev npreg : Nat := 32

/-- BMEM_SIZE, the bytes of BMEM (R10). -/
abbrev bmemSize : Nat := 8192

/-- The XOF block, the bytes of one SHAKE128 squeeze (R8, R102). -/
abbrev xofBlockBytes : Nat := 168

/-- The hash configuration of R11: what the HASH collaborator answers (R100, R101), with the output lengths of R101.
`shake128 M j` is block j of the output stream of M, its bytes `168·j` to `168·j + 167` (R102), so a longer request's
answer extends a shorter one's. `shake256 M len` is the answer to a request of `len` bytes.
The KEM's functions take this record as an argument, so what is proved of them holds for every hash family;
Machine/Hash.lean gives the machine the FIPS 202 one (R11; log entry 2, PRESUMED). -/
structure HashFns where
  sha3_256 : List Byte → List Byte
  sha3_512 : List Byte → List Byte
  shake128 : List Byte → Nat → List Byte
  shake256 : List Byte → Nat → List Byte
  sha3_256_length : ∀ m, (sha3_256 m).length = 32
  sha3_512_length : ∀ m, (sha3_512 m).length = 64
  shake128_length : ∀ m j, (shake128 m j).length = 168
  shake256_length : ∀ m len, (shake256 m len).length = len

/-- BASE, the platform address of window offset 0 (R10, D6, U9): OPEN, so without a body. -/
opaque base : Nat

/-- IRQ_LINE, the platform's interrupt number (R430, D40, U10): OPEN. -/
opaque irqLine : Nat

/-- LAT(cmd), the clock cycles of a command by its OP value (R471, D50, U11): OPEN; no rule depends on it. -/
opaque lat : BitVec 8 → Nat

/-- BUSLAT, the latency of a host bus transaction (R471, D50, U11): OPEN; no rule depends on it. -/
opaque busLat : Nat

/-- HASHLAT, the latency of a HASH transaction (R471, D50, U11): OPEN; no rule depends on it. -/
opaque hashLat : Nat

end Sys2Proof.Config
end

