-- ==== Sys2Proof/Machine/Bits.lean ====
section
/-! DEFINITION. The notation of spec/00_scope.md R12 to R15: bit fields, wrap16, little-endian words (R80). -/

namespace Sys2Proof.Machine

/-- wrap16(v): the `s16` congruent to v mod 2^16 (R13). -/
def wrap16 (v : Int) : Coef := BitVec.ofInt 16 v

/-- v[hi:lo] of R12, as an unsigned integer. -/
def bits (v hi lo : Nat) : Nat := (v >>> lo) % 2 ^ (hi + 1 - lo)

/-- The byte v[7:0]. -/
def toByte (v : Nat) : Byte := BitVec.ofNat 8 v

/-- s[i] of a byte string as an unsigned integer (R15); 0 past its end, where no rule reads. -/
def byteAt (s : List Byte) (i : Nat) : Nat := (s.getD i 0).toNat

/-- a[i] of a polynomial (R15); 0 past its end, where no rule reads. -/
def coeffAt (a : Poly) (i : Nat) : Coef := a.getD i 0

/-- s[i..j): bytes i to j − 1 of a byte string (R15). -/
def slice (s : List Byte) (i j : Nat) : List Byte := (s.drop i).take (j - i)

/-- The 16 low bits of a scalar register, an `s16` (R39). -/
def lo16 (w : Word) : Coef := w.extractLsb' 0 16

/-- The 16 high bits of a scalar register (R39, BASEMUL). -/
def hi16 (w : Word) : Coef := w.extractLsb' 16 16

/-- sext_32 of an `s16` result (R40). -/
def sext32 (c : Coef) : Word := c.signExtend 32

/-- The four bytes of a host word, the lowest address first (R80, R84). -/
def wordBytes (w : Word) : List Byte :=
  [w.extractLsb' 0 8, w.extractLsb' 8 8, w.extractLsb' 16 8, w.extractLsb' 24 8]

/-- The host word of four bytes, the lowest address first (R80, R84). -/
def bytesWord (b0 b1 b2 b3 : Byte) : Word := b3 ++ (b2 ++ (b1 ++ b0))

/-- The host word of two coefficients, the lower number in bits 15:0 (R85, R86). -/
def coeffsWord (c0 c1 : Coef) : Word := c1 ++ c0

end Sys2Proof.Machine
end

