-- ==== Sys2Proof/Machine/State.lean ====
section
/-! DEFINITION. The state of MLKEM768-CORE (spec/10_state.md), the reasons a step stops, and the state after reset.
Plain data throughout: no field is a function. -/

namespace Sys2Proof.Machine

/-- STATUS.ERRCODE's values (R421). Codes 4 to 15 are never produced (U6), so they are no value here. -/
inductive ErrCode where
  | ok
  | illegalCmd
  | pregRange
  | bmemRange
  deriving DecidableEq, Repr

/-- What the HASH collaborator does for the ENGINE's coming turn (R100, R102, R342): the model's own input, not the
spec's state (log entry 3). `silent`: it answers no request (U3). `answers n`: it answers every request, and of each
SHAKE128 stream it delivers the first n blocks; n is any number, so no cap is put on the sampler. -/
inductive HashTurn where
  | silent
  | answers (blocks : Nat)
  deriving DecidableEq, Repr

/-- The response of a host bus transaction (R81): `rdata` for a read, none for a write, and `err`. -/
structure BusResp where
  rdata : Option Word
  err   : Bool
  deriving DecidableEq, Repr

/-- What the outside does next (R19, R81): one host bus transaction, one ENGINE turn with what HASH does in it, or a
level on the input RST_N. The order of the events is the interleaving of the agents (R95; log entry 4). -/
inductive Event where
  | read (addr : BitVec 16)
  | write (addr : BitVec 16) (wdata : Word)
  | engine (hash : HashTurn)
  | rstN (level : Bool)
  deriving DecidableEq, Repr

/-- BMEM (R46): its defined bytes, addresses strictly rising. An address that is not listed holds an undefined byte
(R51; log entry 1). -/
abbrev Memory := List Host.Cell

/-- The polynomial register file (R43): its defined coefficients by number 256·n + i for P[n][i], rising. A number
that is not listed is an undefined coefficient (R51; log entry 1). -/
abbrev PolyFile := List (Nat × Coef)

/-- The state. The fields down to `bmem` are the spec's; the last four are the block's input RST_N and the model's own
record of the outside world. STATUS.BUSY is `pend.isSome` (R49: PEND is "valid while STATUS.BUSY = 1"; log entry 8).
ID, PARAM and the twiddle ROM are constants (R33, R34, R240), not state. Engine scratch and the XOF read position are
not represented, as R49 allows. -/
structure State where
  /-- CTRL.IE (R35) -/
  ie      : Bool
  /-- STATUS.DONE (R36) -/
  done    : Bool
  /-- STATUS.ERR (R36) -/
  err     : Bool
  /-- STATUS.OVR (R36) -/
  ovr     : Bool
  /-- STATUS.ERRCODE (R36, R421) -/
  errcode : ErrCode
  /-- STATUS.LASTOP (R36) -/
  lastop  : BitVec 8
  /-- CMD (R37) -/
  cmd     : Word
  /-- ARG0 (R38) -/
  arg0    : Word
  /-- ARG1 (R38) -/
  arg1    : Word
  /-- ARG2 (R38) -/
  arg2    : Word
  /-- SA (R39) -/
  sa      : Word
  /-- SB (R39) -/
  sb      : Word
  /-- SZ (R39) -/
  sz      : Word
  /-- SR0 (R40) -/
  sr0     : Word
  /-- SR1 (R40) -/
  sr1     : Word
  /-- CTFLAG bit 0 (R41) -/
  ctflag  : Bool
  /-- PEND, the pending-command latch (R49) -/
  pend    : Option Word
  /-- P0..P31 (R43, R51) -/
  preg    : PolyFile
  /-- B[0..8191] (R46, R51) -/
  bmem    : Memory
  /-- the level of the input RST_N (R81, R460) -/
  rstN    : Bool
  /-- what HASH does in the coming ENGINE turn (the model's; log entry 3) -/
  hash    : HashTurn
  /-- what the outside does, oldest first (the model's; log entry 4) -/
  events  : List Event
  /-- the response of the last host transaction, if it was answered (the model's; log entry 7) -/
  resp    : Option BusResp
  deriving DecidableEq, Repr

/-- Why the machine stops. -/
inductive Fault where
  /-- The host or a command reads BMEM byte `addr`, which is undefined (R51, R84, U1: "a model shall treat that read as
  a fault"). Raised by `readBytes`. Safe: the chip goes on with an unspecified value. -/
  | undefinedByte (addr : Nat)
  /-- The host or a command reads P[reg][idx], which is undefined (R51: "A model shall treat that read as a fault"; R206,
  U1, D42). Raised by `readCoeffs`. Safe: the chip goes on with an unspecified value. -/
  | undefinedCoeff (reg idx : Nat)
  /-- A command's byte region reaches `addr`, past BMEM's last byte 8191. Raised by `readBytes` and `writeBytes`. No
  accepted command raises it (R92, R202; log entry 10). Safe. -/
  | noSuchByte (addr : Nat)
  /-- A command names polynomial register `reg` > 31. Raised by `readPoly` and `writePoly`. No accepted command raises
  it (R202; log entry 10). Safe. -/
  | noSuchPreg (reg : Nat)
  deriving DecidableEq, Repr

/-- Why a step has no meaning. -/
inductive Refusal where
  /-- The command `mnemonic` has no meaning in the model yet. Raised by exec's own arms only. Safe. -/
  | notModelled (mnemonic : String)
  /-- PEND holds a word R131 calls illegal. Raised by the ENGINE's turn. No accepted word is illegal (R200, R202), so no
  run from reset meets it (log entry 9). Safe. -/
  | illegalPend (word : Word)
  deriving DecidableEq, Repr

/-- The state after a hard reset (R53, R460, R461): every CSR at its reset value, PEND empty, every cell undefined, RST_N
risen. The last three fields are the model's: no event, no response yet, and HASH answering (log entries 3, 4, 7;
DESIGN CHOICE). -/
def State.reset : State where
  ie := false
  done := false
  err := false
  ovr := false
  errcode := .ok
  lastop := 0
  cmd := 0
  arg0 := 0
  arg1 := 0
  arg2 := 0
  sa := 0
  sb := 0
  sz := 0
  sr0 := 0
  sr1 := 0
  ctflag := false
  pend := none
  preg := []
  bmem := []
  rstN := true
  hash := .answers 8
  events := []
  resp := none

end Sys2Proof.Machine
end

