-- ==== Sys2Proof/Machine/Flags.lean ====
section
/-! DEFINITION. STATUS, its flags and the interrupt output (spec/10_state.md R36, R52; spec/60_exceptions.md R426,
R430), and the condition of the conditional moves (spec/46_ct.md R361). -/

namespace Sys2Proof.Machine

/-- STATUS.BUSY: an accepted command is latched and not complete (R36, R49). -/
def State.busy (s : State) : Bool := s.pend.isSome

/-- The 4-bit code of ERRCODE (R421). -/
def ErrCode.bits : ErrCode → BitVec 4
  | .ok => 0
  | .illegalCmd => 1
  | .pregRange => 2
  | .bmemRange => 3

/-- The STATUS word (R36), bit 31 first: 0, LASTOP, 0, ERRCODE, 0, OVR, ERR, DONE, BUSY. -/
def statusWord (s : State) : Word :=
  0#8 ++ (s.lastop ++ (0#4 ++ (s.errcode.bits ++ (0#4 ++
    (BitVec.ofBool s.ovr ++ (BitVec.ofBool s.err ++ (BitVec.ofBool s.done ++ BitVec.ofBool s.busy)))))))

/-- The CTRL word (R35): IE in bit 1; SRST and the reserved bits read 0. -/
def ctrlWord (s : State) : Word := 0#30 ++ (BitVec.ofBool s.ie ++ 0#1)

/-- The CTFLAG word (R41): bit 0, the rest reads 0. -/
def ctflagWord (s : State) : Word := 0#31 ++ BitVec.ofBool s.ctflag

/-- IRQ = CTRL.IE ∧ STATUS.DONE (R430), low while RST_N is 0 (R460). -/
def irq (s : State) : Bool := s.rstN && (s.ie && s.done)

/-- A STATUS write: a 1 in bits 1, 2 and 3 clears DONE, ERR and OVR; every other bit does nothing (R36, R426). -/
def ackStatus (w : Word) (s : State) : State :=
  { s with
    done := s.done && !w.getLsbD 1
    err := s.err && !w.getLsbD 2
    ovr := s.ovr && !w.getLsbD 3 }

end Sys2Proof.Machine
end

