-- ==== Sys2Proof/Machine/Ops.lean ====
section
/-! DEFINITION. The shared operations: the cell lists behind BMEM and PREG, MemRead and MemWrite, reading and writing
P[n] (spec/00_scope.md R14), acceptance, rejection and completion (spec/40_control.md R201, R204, R205; the block's
counterpart of taking an exception, spec/60_exceptions.md R424), and the loop of the V forms (spec/30_encoding.md R125). -/

namespace Sys2Proof.Machine

/-- One step's outcome on this machine. -/
abbrev Result := Host.Outcome State Fault Refusal

/-! Cell lists: (address, value) pairs, addresses strictly rising; an address that is not listed is undefined (R51). -/

/-- The canonical form of a cell list whose addresses lie below `bound`. -/
abbrev CellsWf {α : Type} (bound : Nat) (m : List (Nat × α)) : Prop :=
  m.Pairwise (fun c d => c.1 < d.1) ∧ ∀ c ∈ m, c.1 < bound

/-- BMEM is in canonical form: a list of bytes at rising addresses below 8192. -/
abbrev Memory.wf (m : Memory) : Prop := CellsWf Config.bmemSize m

/-- PREG is in canonical form: coefficients at rising numbers below 32·256. -/
abbrev PolyFile.wf (m : PolyFile) : Prop := CellsWf (Config.npreg * Config.n) m

/-- The value at address a, none where the cell is undefined. -/
def readCell {α : Type} : List (Nat × α) → Nat → Option α
  | [], _ => none
  | (k, v) :: rest, a => if k = a then some v else readCell rest a

/-- The values at a, a+1, …, a+len−1; the error is the first undefined address. -/
def readCells {α : Type} (m : List (Nat × α)) (a : Nat) : Nat → Except Nat (List α)
  | 0 => .ok []
  | len + 1 =>
    match readCell m a with
    | none => .error a
    | some v => (readCells m (a + 1) len).map (v :: ·)

/-- The cells a, a+1, … with the values vs. -/
def cellsFrom {α : Type} (a : Nat) : List α → List (Nat × α)
  | [] => []
  | v :: vs => (a, v) :: cellsFrom (a + 1) vs

/-- Write vs at a, a+1, …; every written cell becomes defined, every other cell is as before (R51). -/
def writeCells {α : Type} (m : List (Nat × α)) (a : Nat) (vs : List α) : List (Nat × α) :=
  m.filter (fun c => c.1 < a) ++ (cellsFrom a vs ++ m.filter (fun c => a + vs.length ≤ c.1))

/-- Make the cells a, …, a+len−1 undefined (R463). -/
def eraseCells {α : Type} (m : List (Nat × α)) (a len : Nat) : List (Nat × α) :=
  m.filter (fun c => c.1 < a || a + len ≤ c.1)

/-! BMEM and PREG. -/

/-- B[a]: BMEM byte a, none where it is undefined. -/
def byteOf (s : State) (a : Nat) : Option Byte := readCell s.bmem a

/-- P[n][i], none where it is undefined (R43). -/
def coeffOf (s : State) (n i : Nat) : Option Coef := readCell s.preg (256 * n + i)

/-- MemRead(a, len) (R14, R92): a fault where a byte is undefined (R51) or past BMEM's end. -/
def readBytes (s : State) (a len : Nat) : Except Fault (List Byte) :=
  if Config.bmemSize < a + len then .error (.noSuchByte (a + len - 1))
  else (readCells s.bmem a len).mapError .undefinedByte

/-- MemWrite(a, len(bs), bs) (R14, R92). -/
def writeBytes (s : State) (a : Nat) (bs : List Byte) : Except Fault State :=
  if Config.bmemSize < a + bs.length then .error (.noSuchByte (a + bs.length - 1))
  else .ok { s with bmem := writeCells s.bmem a bs }

/-- The `len` coefficients of P[n] from number i on (R43, R86): a fault where one is undefined. -/
def readCoeffs (s : State) (n i len : Nat) : Except Fault (List Coef) :=
  (readCells s.preg (256 * n + i) len).mapError fun k => .undefinedCoeff (k / 256) (k % 256)

/-- The whole of P[n] (R14). -/
def readPoly (s : State) (n : Nat) : Except Fault Poly :=
  if n < Config.npreg then readCoeffs s n 0 256 else .error (.noSuchPreg n)

/-- P[n] <- p (R14, R43). -/
def writePoly (s : State) (n : Nat) (p : Poly) : Except Fault State :=
  if n < Config.npreg then .ok { s with preg := writeCells s.preg (256 * n) p } else .error (.noSuchPreg n)

/-- The vector Vn = P[n], P[n+1], P[n+2] (R44). -/
def readVec (s : State) (n : Nat) : Except Fault (Vec3 Poly) := do
  let p0 ← readPoly s n
  let p1 ← readPoly s (n + 1)
  let p2 ← readPoly s (n + 2)
  return ⟨p0, p1, p2⟩

/-! The command lifecycle. -/

/-- Accept(w) (R201): latch w, which is STATUS.BUSY = 1, and clear DONE. -/
def accept (w : Word) (s : State) : State := { s with pend := some w, done := false }

/-- Reject(w, code) (R205, R423, R424): the block saves the code, sets ERR and DONE, and does no work. -/
def reject (code : ErrCode) (s : State) : State := { s with errcode := code, err := true, done := true }

/-- Completion (R204): PEND empty, which is BUSY = 0; DONE = 1; ERRCODE = 0. -/
def complete (s : State) : State := { s with pend := none, done := true, errcode := .ok }

/-- End a command's pseudocode: complete, or stop at the fault of an undefined or absent cell. -/
def finish : Except Fault State → Result
  | .error f => .fault f
  | .ok s => .next (complete s)

/-- The three element operations of a V = 1 form, in order, each from the state the one before left; the single one of
V = 0 (R125). -/
def forElems (v : Bool) (elem : Nat → State → Except Fault State) (s : State) : Except Fault State :=
  if v then do
    let s1 ← elem 0 s
    let s2 ← elem 1 s1
    elem 2 s2
  else elem 0 s

end Sys2Proof.Machine
end

