-- ==== Sys2Proof/Machine/Operands.lean ====
section
/-! DEFINITION. A command's operands: its byte regions, the Check of an issued word (spec/40_control.md R202), the cells
it reads (spec/70_reset_and_hazards.md R464) and the destination set W it writes (R463), and the condition of the
conditional moves (spec/30_encoding.md R127, spec/46_ct.md R361). -/

namespace Sys2Proof.Machine

/-- ARG0 as a BMEM offset: the whole register, unsigned (R38, R123). -/
def arg0Off (s : State) : Nat := s.arg0.toNat

/-- ARG1 as a BMEM offset (R38, R123). -/
def arg1Off (s : State) : Nat := s.arg1.toNat

/-- ARG2 as a length (R38, R123). -/
def arg2Len (s : State) : Nat := s.arg2.toNat

/-- The fixed KEM regions of R47, as (offset, length). -/
def pkRegion : Nat × Nat := (0x0000, 1184)
def skRegion : Nat × Nat := (0x04A0, 2400)
def ctRegion : Nat × Nat := (0x0E00, 1088)
def ssRegion : Nat × Nat := (0x1240, 32)
def coinsRegion : Nat × Nat := (0x1260, 64)

/-- The byte regions a command reads, as (offset, length): R130's "reads", R464 step 3. -/
def sourceRegions (i : Instr) (s : State) : List (Nat × Nat) :=
  match i with
  | .nop | .montr | .barr | .fqmul | .bflyf | .bflyi | .basemul => []
  | .ntt _ _ _ | .intt _ _ _ | .padd _ _ _ _ | .psub _ _ _ _ | .preduce _ _ _ | .ptomont _ _ _ => []
  | .pbasemul _ _ _ _ | .pvacc _ _ _ | .pcmov _ _ _ _ | .cmov16 _ => []
  | .tobytes _ _ | .compress10 _ _ | .compress4 _ _ | .tomsg _ => []
  | .frombytes v _ => [(arg0Off s, 384 * vSpan v)]
  | .decompress10 v _ => [(arg0Off s, 320 * vSpan v)]
  | .decompress4 v _ | .cbd2 v _ => [(arg0Off s, 128 * vSpan v)]
  | .frommsg _ | .getnoise _ _ _ | .genentry _ | .genmatrix _ _ => [(arg0Off s, 32)]
  | .verify | .cmovb _ => [(arg0Off s, arg2Len s), (arg1Off s, arg2Len s)]
  | .keygen => [coinsRegion]
  | .encaps => [pkRegion, (coinsRegion.1, 32)]
  | .decaps => [skRegion, ctRegion]

/-- The byte regions a command writes, as (offset, length): the BMEM part of the destination set W of R463. -/
def destRegions (i : Instr) (s : State) : List (Nat × Nat) :=
  match i with
  | .nop | .montr | .barr | .fqmul | .bflyf | .bflyi | .basemul => []
  | .ntt _ _ _ | .intt _ _ _ | .padd _ _ _ _ | .psub _ _ _ _ | .preduce _ _ _ | .ptomont _ _ _ => []
  | .pbasemul _ _ _ _ | .pvacc _ _ _ | .pcmov _ _ _ _ | .cmov16 _ | .verify => []
  | .frombytes _ _ | .decompress10 _ _ | .decompress4 _ _ | .frommsg _ => []
  | .cbd2 _ _ | .getnoise _ _ _ | .genentry _ | .genmatrix _ _ => []
  | .tobytes v _ => [(arg0Off s, 384 * vSpan v)]
  | .compress10 v _ => [(arg0Off s, 320 * vSpan v)]
  | .compress4 v _ => [(arg0Off s, 128 * vSpan v)]
  | .tomsg _ => [(arg0Off s, 32)]
  | .cmovb _ => [(arg0Off s, arg2Len s)]
  | .keygen => [pkRegion, skRegion]
  | .encaps => [ctRegion, ssRegion]
  | .decaps => [ssRegion]

/-- Regions(w) of R202: every byte region of a command. -/
def regions (i : Instr) (s : State) : List (Nat × Nat) := sourceRegions i s ++ destRegions i s

/-- A byte region stays inside BMEM: a + len ≤ 8192 on unbounded integers (R202). -/
def regionOk (r : Nat × Nat) : Bool := r.1 + r.2 ≤ Config.bmemSize

/-- Checks 2 and 3 of R202, in that order, on a legal word's command. -/
def checkInstr (i : Instr) (s : State) : ErrCode :=
  if i.wf then if (regions i s).all regionOk then .ok else .bmemRange else .pregRange

/-- Check(w) of R202: the first failing code in the order 1, 2, 3. -/
def check (w : Word) (s : State) : ErrCode :=
  match decode w with
  | .error _ => .illegalCmd
  | .ok i => checkInstr i s

/-- Every coefficient of the registers r, …, r + span − 1 is defined. -/
def regsDefined (s : State) (r : Nat × Nat) : Bool :=
  (List.range (256 * r.2)).all fun j => (readCell s.preg (256 * r.1 + j)).isSome

/-- Every byte of a region is defined. -/
def regionDefined (s : State) (r : Nat × Nat) : Bool :=
  (List.range r.2).all fun j => (readCell s.bmem (r.1 + j)).isSome

/-- Every cell a command reads is defined (R464 step 3, H-5 of R470). -/
def sourcesDefined (i : Instr) (s : State) : Bool :=
  i.sourceRegs.all (regsDefined s) && (sourceRegions i s).all (regionDefined s)

/-- Coefficient number k (256·n + j for P[n][j]) belongs to the destination set W of a command (R463). -/
def inDestRegs (i : Instr) (k : Nat) : Bool :=
  i.destRegs.any fun r => 256 * r.1 ≤ k && k < 256 * (r.1 + r.2)

/-- BMEM byte a belongs to the destination set W of a command (R463). -/
def inDestRegions (i : Instr) (s : State) (a : Nat) : Bool :=
  (destRegions i s).any fun r => r.1 ≤ a && a < r.1 + r.2

/-- The bit `cond` a conditional move takes from CSEL and CTFLAG (R127, R361). -/
def condition (csel : CSel) (s : State) : Bool :=
  match csel with
  | .f1 => s.ctflag
  | .f0 => !s.ctflag

/-- m_w = 0 − cond, all ones when cond = 1 and all zeros when cond = 0 (R361). -/
def condMask (w : Nat) (cond : Bool) : BitVec w := 0 - (BitVec.ofBool cond).setWidth w

/-- x XOR (m AND (x XOR y)): y under the mask of ones, x under the mask of zeros (R361). -/
def maskSelect {w : Nat} (cond : Bool) (x y : BitVec w) : BitVec w := x ^^^ (condMask w cond &&& (x ^^^ y))

end Sys2Proof.Machine
end

