-- ==== Sys2Proof/Machine/Field.lean ====
section
/-! DEFINITION. The field unit (spec/41_field.md): the arithmetic functions of R221 to R226 and the six scalar commands
R227 to R232. Arithmetic is on unbounded integers and narrowed at the end (R13, R220). -/

namespace Sys2Proof.Machine

/-- QINV = q⁻¹ mod 2^16 (R9). -/
def qinv : Int := 62209

/-- Montgomery reduction (R221), on a signed 32-bit value. -/
def montR (a : Int) : Coef :=
  let t := (wrap16 (a * qinv)).toInt
  let u := a - t * Config.q
  wrap16 (u >>> 16)

/-- Barrett reduction: a mod q in [0, q) (R222, conflict C1). -/
def barrett (a : Coef) : Coef := wrap16 (a.toInt % Config.q)

/-- The realisation of Barrett reduction R222 gives, with v = 20159. -/
def barrettRealised (a : Coef) : Coef :=
  let t := (20159 * a.toInt + 2 ^ 25) >>> 26
  let r := a.toInt - t * Config.q
  wrap16 (if r < 0 then r + Config.q else r)

/-- fqmul(a, b) = MontR(a·b) (R223). -/
def fqmul (a b : Coef) : Coef := montR (a.toInt * b.toInt)

/-- Forward (Cooley-Tukey) butterfly (R224). -/
def bflyF (a b z : Coef) : Coef × Coef :=
  let t := fqmul z b
  (wrap16 (a.toInt + t.toInt), wrap16 (a.toInt - t.toInt))

/-- Inverse (Gentleman-Sande) butterfly (R225). -/
def bflyI (a b z : Coef) : Coef × Coef :=
  (barrett (wrap16 (a.toInt + b.toInt)), fqmul z (wrap16 (b.toInt - a.toInt)))

/-- Base multiplication of two degree-1 slices (R226). -/
def baseMul2 (a0 a1 b0 b1 z : Coef) : Coef × Coef :=
  (wrap16 ((fqmul (fqmul a1 b1) z).toInt + (fqmul a0 b0).toInt),
   wrap16 ((fqmul a0 b1).toInt + (fqmul a1 b0).toInt))

/-- MONTR (R227): SR0 <- MontR of all 32 bits of SA. -/
def execMontr (s : State) : Result := .next (complete { s with sr0 := sext32 (montR s.sa.toInt) })

/-- BARR (R228): SR0 <- Barrett of SA[15:0]. -/
def execBarr (s : State) : Result := .next (complete { s with sr0 := sext32 (barrett (lo16 s.sa)) })

/-- FQMUL (R229): SR0 <- fqmul(SA[15:0], SB[15:0]). -/
def execFqmul (s : State) : Result :=
  .next (complete { s with sr0 := sext32 (fqmul (lo16 s.sa) (lo16 s.sb)) })

/-- Write a pair of `s16` results into SR0 and SR1 (R40). -/
def writeSrPair (r : Coef × Coef) (s : State) : State := { s with sr0 := sext32 r.1, sr1 := sext32 r.2 }

/-- BFLYF (R230). -/
def execBflyf (s : State) : Result :=
  .next (complete (writeSrPair (bflyF (lo16 s.sa) (lo16 s.sb) (lo16 s.sz)) s))

/-- BFLYI (R231). -/
def execBflyi (s : State) : Result :=
  .next (complete (writeSrPair (bflyI (lo16 s.sa) (lo16 s.sb) (lo16 s.sz)) s))

/-- BASEMUL (R232): a0, b0 in the low halves of SA and SB, a1, b1 in the high halves. -/
def execBasemul (s : State) : Result :=
  .next (complete (writeSrPair
    (baseMul2 (lo16 s.sa) (hi16 s.sa) (lo16 s.sb) (hi16 s.sb) (lo16 s.sz)) s))

end Sys2Proof.Machine
end

