-- ==== Sys2Proof/Machine/Ntt.lean ====
section
/-! DEFINITION. The NTT unit (spec/42_ntt.md): the twiddle ROM, the two transforms with the loops of R243 and R244
written out as their fixed schedule (R248), and the commands NTT and INTT. -/

namespace Sys2Proof.Machine

/-- The contents of the twiddle ROM, row by row (R241). -/
def zetasInt : List Int :=
  [-1044, -758, -359, -1517, 1493, 1422, 287, 202, -171, 622, 1577, 182, 962, -1202, -1474, 1468] ++
  [573, -1325, 264, 383, -829, 1458, -1602, -130, -681, 1017, 732, 608, -1542, 411, -205, -1571] ++
  [1223, 652, -552, 1015, -1293, 1491, -282, -1544, 516, -8, -320, -666, -1618, -1162, 126, 1469] ++
  [-853, -90, -271, 830, 107, -1421, -247, -951, -398, 961, -1508, -725, 448, -1065, 677, -1275] ++
  [-1103, 430, 555, 843, -1251, 871, 1550, 105, 422, 587, 177, -235, -291, -460, 1574, 1653] ++
  [-246, 778, 1159, -147, -777, 1483, -602, 1119, -1590, 644, -872, 349, 418, 329, -156, -75] ++
  [817, 1097, 603, 610, 1322, -1285, -1465, 384, -1215, -136, 1218, -1335, -874, 220, -1187, -1659] ++
  [-1185, -1530, -1278, 794, -1510, -854, -870, 478, -108, -308, 996, 991, 958, -1460, 1522, 1628]

/-- ZETAS, the 128 `s16` entries of the twiddle ROM (R45, R241). -/
def zetas : List Coef := zetasInt.map wrap16

/-- ZETAS[i] (R14). -/
def zeta (i : Nat) : Coef := zetas.getD i 0

/-- One butterfly of a transform: twiddle index and the two coefficient numbers it works on. -/
structure Butterfly where
  k  : Nat
  lo : Nat
  hi : Nat
  deriving DecidableEq, Repr

/-- The blocks of a transform in loop order: for each `len`, each `start` = 0, 2·len, … < 256 (R243, R244). -/
def nttBlocks (lens : List Nat) : List (Nat × Nat) :=
  lens.flatMap fun len => (List.range (256 / (2 * len))).map fun b => (len, 2 * len * b)

/-- The butterflies of one block: j = start, …, start + len − 1, all with the block's twiddle (R243, R244). -/
def blockButterflies (k : Nat) (block : Nat × Nat) : List Butterfly :=
  (List.range block.1).map fun j => ⟨k, block.2 + j, block.2 + j + block.1⟩

/-- The forward schedule (R243): len = 128, …, 2, and k counts the blocks up from 1. -/
def nttSchedule : List Butterfly :=
  ((nttBlocks [128, 64, 32, 16, 8, 4, 2]).zipIdx 1).flatMap fun (block, k) => blockButterflies k block

/-- The inverse schedule (R244): len = 2, …, 128, and k counts the blocks down from 127. -/
def inttSchedule : List Butterfly :=
  ((nttBlocks [2, 4, 8, 16, 32, 64, 128]).zipIdx 0).flatMap fun (block, c) => blockButterflies (127 - c) block

/-- (r[lo], r[hi]) <- f(r[lo], r[hi], ZETAS[k]). -/
def butterflyStep (f : Coef → Coef → Coef → Coef × Coef) (r : Poly) (b : Butterfly) : Poly :=
  let p := f (coeffAt r b.lo) (coeffAt r b.hi) (zeta b.k)
  (r.set b.lo p.1).set b.hi p.2

/-- Ntt(a), the forward transform (R243). -/
def ntt (a : Poly) : Poly := nttSchedule.foldl (butterflyStep bflyF) a

/-- Intt(a), the inverse transform, with its final multiplication by 1441 (R244). -/
def intt (a : Poly) : Poly :=
  (inttSchedule.foldl (butterflyStep bflyI) a).map fun c => fqmul c 1441

/-- One element operation of the one-source commands: P[pd+i] <- f(P[pa+i]) (R125, R245). -/
def mapElem (f : Poly → Poly) (pd pa : PReg) (i : Nat) (s : State) : Except Fault State := do
  let a ← readPoly s (pa.toNat + i)
  writePoly s (pd.toNat + i) (f a)

/-- NTT (R245): P[pd+i] <- Ntt(P[pa+i]). -/
def execNtt (v : Bool) (pd pa : PReg) (s : State) : Result := finish (forElems v (mapElem ntt pd pa) s)

/-- INTT (R246): P[pd+i] <- Intt(P[pa+i]). -/
def execIntt (v : Bool) (pd pa : PReg) (s : State) : Result := finish (forElems v (mapElem intt pd pa) s)

end Sys2Proof.Machine
end

