-- ==== Sys2Proof/Machine/Reset.lean ====
section
/-! DEFINITION. Reset and abort (spec/70_reset_and_hazards.md R460 to R463). -/

namespace Sys2Proof.Machine

/-- Make the destination set W of a command undefined (R463). -/
def undefineDest (i : Instr) (s : State) : State :=
  { s with
    preg := i.destRegs.foldl (fun m r => eraseCells m (256 * r.1) (256 * r.2)) s.preg
    bmem := (destRegions i s).foldl (fun m r => eraseCells m r.1 r.2) s.bmem }

/-- Abort(PEND): the pending command's step is cancelled and its destination set becomes undefined (R463; log entry 11).
With no pending command there is nothing to abort. -/
def abort (s : State) : State :=
  match s.pend with
  | none => s
  | some w =>
    match decode w with
    | .error _ => s
    | .ok i => undefineDest i s

/-- Every CSR at its reset value, PEND empty; BMEM, PREG and what lies outside the CSRs are kept (R461, soft reset
column, with IE to be loaded). -/
def resetCsrs (s : State) : State :=
  { State.reset with preg := s.preg, bmem := s.bmem, rstN := s.rstN, hash := s.hash, events := s.events, resp := s.resp }

/-- A soft reset, the write of `w` with bit 0 = 1 to CTRL (R35, R462). -/
def softReset (w : Word) (s : State) : State := { resetCsrs (abort s) with ie := w.getLsbD 1 }

/-- A level on RST_N (R460). At 0 the running command is abandoned and every cell is undefined; when RST_N rises the
state is that of R53; a high level that stays high changes nothing. The outside's later events and HASH are not the
block's to reset (log entry 6). -/
def driveRstN (level : Bool) (s : State) : State :=
  if level && s.rstN then s
  else { State.reset with rstN := level, hash := s.hash, events := s.events }

end Sys2Proof.Machine
end

