-- ==== Sys2Proof/Machine/Bus.lean ====
section
/-! DEFINITION. The host bus slave port (spec/20_memory.md R81 to R91, spec/10_state.md R32 to R42 and R50) and the issue
of a command (spec/40_control.md R200). -/

namespace Sys2Proof.Machine

/-- The window map of R83. `csr k` is the word at offset 4·k; `zrom w`, `bmem w` and `preg w` are word w of their
window. -/
inductive Target where
  | misaligned
  | csr (k : Nat)
  | zrom (w : Nat)
  | bmem (w : Nat)
  | preg (w : Nat)
  | unmapped
  deriving DecidableEq, Repr

/-- What an address selects (R82, R83). -/
def target (addr : BitVec 16) : Target :=
  let a := addr.toNat
  if a % 4 ≠ 0 then .misaligned
  else if a < 0x0040 then .csr (a / 4)
  else if a < 0x0100 then .unmapped
  else if a < 0x0200 then .zrom ((a - 0x0100) / 4)
  else if a < 0x2000 then .unmapped
  else if a < 0x4000 then .bmem ((a - 0x2000) / 4)
  else if a < 0x8000 then .unmapped
  else if a < 0xC000 then .preg ((a - 0x8000) / 4)
  else .unmapped

/-- ID (R33). -/
def idValue : Word := 0x4D4C4B37

/-- PARAM (R34): REV, ETA2, ETA1, K from bit 31 down. -/
def paramValue : Word := 0x01020203

/-- A CSR read, by word number (R32): the reserved words 14 and 15 read 0 (R42). -/
def csrRead (k : Nat) (s : State) : Word :=
  match k with
  | 0 => idValue
  | 1 => paramValue
  | 2 => ctrlWord s
  | 3 => statusWord s
  | 4 => s.cmd
  | 5 => s.arg0
  | 6 => s.arg1
  | 7 => s.arg2
  | 8 => s.sa
  | 9 => s.sb
  | 10 => s.sz
  | 11 => s.sr0
  | 12 => s.sr1
  | 13 => ctflagWord s
  | _ => 0

/-- A refused read: `rdata` = 0 and `err` = 1 (R82, R83, R88, R89). -/
def readErr : BusResp := ⟨some 0, true⟩

/-- A served read. -/
def readOk (w : Word) : BusResp := ⟨some w, false⟩

/-- A refused write: `err` = 1 (R82, R83, R88, R89). -/
def writeErr : BusResp := ⟨none, true⟩

/-- A write with an OKAY response, performed or ignored. -/
def writeOk : BusResp := ⟨none, false⟩

/-- A ZROM word (R85). -/
def zromRead (w : Nat) : Word := coeffsWord (zeta (2 * w)) (zeta (2 * w + 1))

/-- A BMEM word (R84). -/
def bmemRead (w : Nat) (s : State) : Except Fault Word := do
  let b ← readBytes s (4 * w) 4
  return bytesWord (b.getD 0 0) (b.getD 1 0) (b.getD 2 0) (b.getD 3 0)

/-- A PREG word: coefficients 2j and 2j+1 of Pn, word number 128·n + j (R86). -/
def pregRead (w : Nat) (s : State) : Except Fault Word := do
  let c ← readCoeffs s (w / 128) (2 * (w % 128)) 2
  return coeffsWord (c.getD 0 0) (c.getD 1 0)

/-- A host read (R82 to R91). It changes no state (R91); a read of an undefined cell is a fault (R51). -/
def hostRead (addr : BitVec 16) (s : State) : Except Fault BusResp :=
  match target addr with
  | .misaligned => .ok readErr
  | .csr k => .ok (readOk (csrRead k s))
  | .zrom w => .ok (readOk (zromRead w))
  | .bmem w => if s.busy then .ok readErr else (bmemRead w s).map readOk
  | .preg w => if s.busy then .ok readErr else (pregRead w s).map readOk
  | .unmapped => .ok readErr

/-- Issue a word while BUSY = 0 (R200): store it in CMD and its OP in LASTOP, check it, then accept or reject it. -/
def issue (w : Word) (s : State) : State :=
  let s1 := { s with cmd := w, lastop := opField w }
  match check w s1 with
  | .ok => accept w s1
  | code => reject code s1

/-- A write to CMD (R37): an issue while BUSY = 0, an overrun while BUSY = 1 (R425; OKAY, log entry 13). -/
def writeCmd (w : Word) (s : State) : State := if s.busy then { s with ovr := true } else issue w s

/-- A write to CTRL (R35): bit 0 performs the soft reset, and IE is loaded from bit 1. -/
def writeCtrl (w : Word) (s : State) : State :=
  if w.getLsbD 0 then softReset w s else { s with ie := w.getLsbD 1 }

/-- A write to an operand CSR or CTFLAG: dropped with a bus error while BUSY = 1 (R50). -/
def writeOperand (s : State) (written : State) : State × BusResp :=
  if s.busy then (s, writeErr) else (written, writeOk)

/-- A CSR write, by word number (R32, R50): read-only and reserved words ignore it with an OKAY response. -/
def csrWrite (k : Nat) (w : Word) (s : State) : State × BusResp :=
  match k with
  | 2 => (writeCtrl w s, writeOk)
  | 3 => (ackStatus w s, writeOk)
  | 4 => (writeCmd w s, writeOk)
  | 5 => writeOperand s { s with arg0 := w }
  | 6 => writeOperand s { s with arg1 := w }
  | 7 => writeOperand s { s with arg2 := w }
  | 8 => writeOperand s { s with sa := w }
  | 9 => writeOperand s { s with sb := w }
  | 10 => writeOperand s { s with sz := w }
  | 13 => writeOperand s { s with ctflag := w.getLsbD 0 }
  | _ => (s, writeOk)

/-- A BMEM word write: B[4w+b] <- wdata[8b+7:8b] (R84). -/
def bmemWrite (w : Nat) (d : Word) (s : State) : State :=
  { s with bmem := writeCells s.bmem (4 * w) (wordBytes d) }

/-- A PREG word write: P[n][2j] <- wdata[15:0], P[n][2j+1] <- wdata[31:16] (R86). -/
def pregWrite (w : Nat) (d : Word) (s : State) : State :=
  { s with preg := writeCells s.preg (256 * (w / 128) + 2 * (w % 128)) [lo16 d, hi16 d] }

/-- A host write (R82 to R91). -/
def hostWrite (addr : BitVec 16) (d : Word) (s : State) : State × BusResp :=
  match target addr with
  | .misaligned => (s, writeErr)
  | .csr k => csrWrite k d s
  | .zrom _ => (s, writeErr)
  | .bmem w => if s.busy then (s, writeErr) else (bmemWrite w d s, writeOk)
  | .preg w => if s.busy then (s, writeErr) else (pregWrite w d s, writeOk)
  | .unmapped => (s, writeErr)

/-- One host bus transaction as a step: the response stands in `resp` (R81). While RST_N is 0 the block answers none
(R460). -/
def hostReadTurn (addr : BitVec 16) (s : State) : Result :=
  if s.rstN then
    match hostRead addr s with
    | .error f => .fault f
    | .ok r => .next { s with resp := some r }
  else .next { s with resp := none }

/-- The same for a write. -/
def hostWriteTurn (addr : BitVec 16) (d : Word) (s : State) : Result :=
  if s.rstN then
    let r := hostWrite addr d s
    .next { r.1 with resp := some r.2 }
  else .next { s with resp := none }

/-- BASE + offset, the platform address of a window offset (R10, R83; BASE is OPEN). -/
def platformAddress (offset : BitVec 16) : Nat := Config.base + offset.toNat

end Sys2Proof.Machine
end

