-- ==== Sys2Proof/Machine/Control.lean ====
section
/-! DEFINITION. The control family (spec/40_control.md): NOP. -/

namespace Sys2Proof.Machine

/-- NOP (R208): the command just completes. -/
def execNop (s : State) : Result := .next (complete s)

end Sys2Proof.Machine
end

