-- ==== Sys2Proof/Machine/Hash.lean ====
section
/-! DEFINITION. What the HASH collaborator answers (spec/20_memory.md R100 to R102). spec/00_scope.md R11 gives the four
functions "the meanings FIPS 202 gives them"; the Keccak sponge below is that standard's (log entry 2, PRESUMED), and it
reproduces the hash values of spec/95_test_vectors.md. -/

namespace Sys2Proof.Machine

/-- A Keccak lane. -/
abbrev Lane := BitVec 64

/-- The round constants of Keccak-f[1600] (FIPS 202). -/
def keccakRc : List Lane :=
  [0x0000000000000001, 0x0000000000008082, 0x800000000000808A, 0x8000000080008000,
   0x000000000000808B, 0x0000000080000001, 0x8000000080008081, 0x8000000000008009] ++
  [0x000000000000008A, 0x0000000000000088, 0x0000000080008009, 0x000000008000000A,
   0x000000008000808B, 0x800000000000008B, 0x8000000000008089, 0x8000000000008003] ++
  [0x8000000000008002, 0x8000000000000080, 0x000000000000800A, 0x800000008000000A,
   0x8000000080008081, 0x8000000000008080, 0x0000000080000001, 0x8000000080008008]

/-- The five lanes of one row, x = 0 to 4. -/
structure KRow where
  x0 : Lane
  x1 : Lane
  x2 : Lane
  x3 : Lane
  x4 : Lane
  deriving DecidableEq, Repr

/-- The 25 lanes: rows y = 0 to 4. -/
structure KState where
  y0 : KRow
  y1 : KRow
  y2 : KRow
  y3 : KRow
  y4 : KRow
  deriving DecidableEq, Repr

/-- The lanewise XOR of two rows. -/
def xorRow (a b : KRow) : KRow := ⟨a.x0 ^^^ b.x0, a.x1 ^^^ b.x1, a.x2 ^^^ b.x2, a.x3 ^^^ b.x3, a.x4 ^^^ b.x4⟩

/-- A function of a row, on each row. -/
def mapRows (f : KRow → KRow) (a : KState) : KState := ⟨f a.y0, f a.y1, f a.y2, f a.y3, f a.y4⟩

/-- The lanewise XOR of two states. -/
def xorState (a b : KState) : KState :=
  ⟨xorRow a.y0 b.y0, xorRow a.y1 b.y1, xorRow a.y2 b.y2, xorRow a.y3 b.y3, xorRow a.y4 b.y4⟩

/-- What step theta XORs into column x, from the column parities c: c[x−1] and c[x+1] rotated by 1 (FIPS 202). -/
def thetaRow (c : KRow) : KRow :=
  ⟨c.x4 ^^^ c.x1.rotateLeft 1, c.x0 ^^^ c.x2.rotateLeft 1, c.x1 ^^^ c.x3.rotateLeft 1, c.x2 ^^^ c.x4.rotateLeft 1,
    c.x3 ^^^ c.x0.rotateLeft 1⟩

/-- Step theta. -/
def keccakTheta (a : KState) : KState :=
  let d := thetaRow (xorRow a.y0 (xorRow a.y1 (xorRow a.y2 (xorRow a.y3 a.y4))))
  mapRows (xorRow d) a

/-- Steps rho and pi: lane (x, y) is lane (x + 3y, x) of the state before, rotated by that lane's offset. -/
def keccakRhoPi (a : KState) : KState where
  y0 := ⟨a.y0.x0, a.y1.x1.rotateLeft 44, a.y2.x2.rotateLeft 43, a.y3.x3.rotateLeft 21, a.y4.x4.rotateLeft 14⟩
  y1 := ⟨a.y0.x3.rotateLeft 28, a.y1.x4.rotateLeft 20, a.y2.x0.rotateLeft 3, a.y3.x1.rotateLeft 45,
    a.y4.x2.rotateLeft 61⟩
  y2 := ⟨a.y0.x1.rotateLeft 1, a.y1.x2.rotateLeft 6, a.y2.x3.rotateLeft 25, a.y3.x4.rotateLeft 8,
    a.y4.x0.rotateLeft 18⟩
  y3 := ⟨a.y0.x4.rotateLeft 27, a.y1.x0.rotateLeft 36, a.y2.x1.rotateLeft 10, a.y3.x2.rotateLeft 15,
    a.y4.x3.rotateLeft 56⟩
  y4 := ⟨a.y0.x2.rotateLeft 62, a.y1.x3.rotateLeft 55, a.y2.x4.rotateLeft 39, a.y3.x0.rotateLeft 41,
    a.y4.x1.rotateLeft 2⟩

/-- Step chi on one row. -/
def chiRow (b : KRow) : KRow :=
  ⟨b.x0 ^^^ (~~~b.x1 &&& b.x2), b.x1 ^^^ (~~~b.x2 &&& b.x3), b.x2 ^^^ (~~~b.x3 &&& b.x4),
    b.x3 ^^^ (~~~b.x4 &&& b.x0), b.x4 ^^^ (~~~b.x0 &&& b.x1)⟩

/-- Step iota: the round constant goes into lane (0, 0). -/
def keccakIota (rc : Lane) (a : KState) : KState := { a with y0 := { a.y0 with x0 := a.y0.x0 ^^^ rc } }

/-- One round. -/
def keccakRound (a : KState) (rc : Lane) : KState := keccakIota rc (mapRows chiRow (keccakRhoPi (keccakTheta a)))

/-- The permutation Keccak-f[1600]. -/
def keccakF (a : KState) : KState := keccakRc.foldl keccakRound a

/-- The state whose lane (x, y) is f (x + 5y). -/
def stateOf (f : Nat → Lane) : KState :=
  let row (y : Nat) : KRow := ⟨f (5 * y), f (5 * y + 1), f (5 * y + 2), f (5 * y + 3), f (5 * y + 4)⟩
  ⟨row 0, row 1, row 2, row 3, row 4⟩

/-- The lanes of a row in order. -/
def rowLanes (r : KRow) : List Lane := [r.x0, r.x1, r.x2, r.x3, r.x4]

/-- The 25 lanes in order, lane (x, y) at x + 5y. -/
def stateLanes (a : KState) : List Lane :=
  rowLanes a.y0 ++ (rowLanes a.y1 ++ (rowLanes a.y2 ++ (rowLanes a.y3 ++ rowLanes a.y4)))

/-- The lane of eight bytes, the first byte lowest. -/
def laneOfBytes (b : List Byte) (i : Nat) : Lane :=
  BitVec.ofNat 64 ((List.range 8).foldr (fun j x => byteAt b (8 * i + j) + 256 * x) 0)

/-- Absorb `count` blocks of `rate` bytes. -/
def absorb (rate : Nat) : Nat → List Byte → KState → KState
  | 0, _, a => a
  | count + 1, msg, a =>
    absorb rate count (msg.drop rate) (keccakF (xorState a (stateOf (laneOfBytes (msg.take rate)))))

/-- The message with the domain suffix and the padding of a `rate`-byte sponge. -/
def padMessage (rate : Nat) (suffix : Byte) (msg : List Byte) : List Byte :=
  let zeros := rate - 1 - msg.length % rate
  if zeros = 0 then msg ++ [suffix ||| 0x80] else msg ++ ([suffix] ++ (List.replicate (zeros - 1) 0 ++ [0x80]))

/-- The sponge's state after the whole message. -/
def spongeState (rate : Nat) (suffix : Byte) (msg : List Byte) : KState :=
  absorb rate (msg.length / rate + 1) (padMessage rate suffix msg) (stateOf fun _ => 0)

/-- The bytes of a lane, the lowest first. -/
def laneBytes (l : Lane) : List Byte := (List.range 8).map fun j => l.extractLsb' (8 * j) 8

/-- The bytes of the lanes. -/
def stateBytes (a : KState) : List Byte := (stateLanes a).flatMap laneBytes

/-- Apply the permutation `count` more times. -/
def keccakIter : Nat → KState → KState
  | 0, a => a
  | count + 1, a => keccakIter count (keccakF a)

/-- Block j of a sponge's output. -/
def squeezeBlock (rate : Nat) (a : KState) (j : Nat) : List Byte := (stateBytes (keccakIter j a)).take rate

/-- SHA3-256 (R11). -/
def sha3_256 (m : List Byte) : List Byte := (stateBytes (spongeState 136 0x06 m)).take 32

/-- SHA3-512 (R11). -/
def sha3_512 (m : List Byte) : List Byte := (stateBytes (spongeState 72 0x06 m)).take 64

/-- Block j, 168 bytes, of SHAKE128's output stream (R11, R102). -/
def shake128Block (m : List Byte) (j : Nat) : List Byte := squeezeBlock 168 (spongeState 168 0x1F m) j

/-- SHAKE256 with `len` bytes of output (R11). -/
def shake256 (m : List Byte) (len : Nat) : List Byte :=
  let a := spongeState 136 0x1F m
  ((List.range (len / 136 + 1)).flatMap (squeezeBlock 136 a)).take len

theorem stateBytes_length (a : KState) : (stateBytes a).length = 200 := by
  simp [stateBytes, stateLanes, rowLanes, laneBytes]

theorem squeezeBlock_length (rate : Nat) (h : rate ≤ 200) (a : KState) (j : Nat) :
    (squeezeBlock rate a j).length = rate := by
  simp [squeezeBlock, stateBytes_length, h]

theorem shake256_length (m : List Byte) (len : Nat) : (shake256 m len).length = len := by
  have h : ∀ n, ((List.range n).flatMap (squeezeBlock 136 (spongeState 136 0x1F m))).length = 136 * n := by
    intro n
    simp [List.length_flatMap, squeezeBlock_length, Nat.mul_comm]
  simp only [shake256, List.length_take, h]
  omega

/-- The hash configuration of the machine: HASH_H, HASH_G, XOF128 and PRF256 as FIPS 202 gives them (R11, U12). -/
def hashFns : Config.HashFns where
  sha3_256 := sha3_256
  sha3_512 := sha3_512
  shake128 := shake128Block
  shake256 := shake256
  sha3_256_length m := by simp [sha3_256, stateBytes_length]
  sha3_512_length m := by simp [sha3_512, stateBytes_length]
  shake128_length m j := squeezeBlock_length 168 (by decide) _ j
  shake256_length := shake256_length

/-! The functions the commands request, by their names in R101, over any hash configuration. -/

/-- H(M) (R101). -/
def hashH (H : Config.HashFns) (m : List Byte) : List Byte := H.sha3_256 m

/-- The two halves of G(M), bytes 0 to 31 and 32 to 63 (R101). -/
def hashG (H : Config.HashFns) (m : List Byte) : List Byte × List Byte :=
  (slice (H.sha3_512 m) 0 32, slice (H.sha3_512 m) 32 64)

/-- The first `blocks` blocks of the stream XOF(M) (R101, R102). -/
def xofStream (H : Config.HashFns) (m : List Byte) (blocks : Nat) : List Byte :=
  (List.range blocks).flatMap (H.shake128 m)

/-- PRF(s, b) (R101). -/
def prf (H : Config.HashFns) (s : List Byte) (b : Byte) : List Byte := H.shake256 (s ++ [b]) 128

/-- J(z, c) (R101). -/
def hashJ (H : Config.HashFns) (z c : List Byte) : List Byte := H.shake256 (z ++ c) 32

end Sys2Proof.Machine
end

