-- ==== Sys2Proof/Machine/Poly.lean ====
section
/-! DEFINITION. Polynomial arithmetic and the polyvec multiply-accumulate (spec/43_poly.md). -/

namespace Sys2Proof.Machine

/-- Coefficientwise sum with wrap (R262). -/
def polyAdd (a b : Poly) : Poly := List.zipWith (fun x y => wrap16 (x.toInt + y.toInt)) a b

/-- Coefficientwise difference with wrap (R263). -/
def polySub (a b : Poly) : Poly := List.zipWith (fun x y => wrap16 (x.toInt - y.toInt)) a b

/-- PolyReduce: Barrett on every coefficient (R264). -/
def polyReduce (a : Poly) : Poly := a.map barrett

/-- PolyToMont: MontR of the coefficient times 1353 = 2^32 mod q (R265). -/
def polyToMont (a : Poly) : Poly := a.map fun c => montR (c.toInt * 1353)

/-- The four coefficients 4i to 4i+3 of an NTT-domain product: pair 2i with ZETAS[64+i], pair 2i+1 with its negative
(R261). -/
def baseMulQuad (a b : Poly) (i : Nat) : List Coef :=
  let z := zeta (64 + i)
  let p := baseMul2 (coeffAt a (4 * i)) (coeffAt a (4 * i + 1)) (coeffAt b (4 * i)) (coeffAt b (4 * i + 1)) z
  let r := baseMul2 (coeffAt a (4 * i + 2)) (coeffAt a (4 * i + 3)) (coeffAt b (4 * i + 2)) (coeffAt b (4 * i + 3))
    (wrap16 (-z.toInt))
  [p.1, p.2, r.1, r.2]

/-- PolyBaseMul, the NTT-domain polynomial product (R261). -/
def polyBaseMul (a b : Poly) : Poly := (List.range 64).flatMap (baseMulQuad a b)

/-- PolyVecAcc, the inner product of two polyvecs in the NTT domain (R267). -/
def polyVecAcc (a b : Vec3 Poly) : Poly :=
  polyReduce (polyAdd (polyAdd (polyBaseMul a.v0 b.v0) (polyBaseMul a.v1 b.v1)) (polyBaseMul a.v2 b.v2))

/-- One element operation of the two-source commands: P[pd+i] <- f(P[pa+i], P[pb+i]) (R125, R262). -/
def zipElem (f : Poly → Poly → Poly) (pd pa pb : PReg) (i : Nat) (s : State) : Except Fault State := do
  let a ← readPoly s (pa.toNat + i)
  let b ← readPoly s (pb.toNat + i)
  writePoly s (pd.toNat + i) (f a b)

/-- PADD (R262). -/
def execPadd (v : Bool) (pd pa pb : PReg) (s : State) : Result := finish (forElems v (zipElem polyAdd pd pa pb) s)

/-- PSUB (R263). -/
def execPsub (v : Bool) (pd pa pb : PReg) (s : State) : Result := finish (forElems v (zipElem polySub pd pa pb) s)

/-- PREDUCE (R264). -/
def execPreduce (v : Bool) (pd pa : PReg) (s : State) : Result := finish (forElems v (mapElem polyReduce pd pa) s)

/-- PTOMONT (R265). -/
def execPtomont (v : Bool) (pd pa : PReg) (s : State) : Result := finish (forElems v (mapElem polyToMont pd pa) s)

/-- PBASEMUL (R266). -/
def execPbasemul (v : Bool) (pd pa pb : PReg) (s : State) : Result :=
  finish (forElems v (zipElem polyBaseMul pd pa pb) s)

/-- PVACC (R268): all six sources are read before P[pd] is written. -/
def execPvacc (pd pa pb : PReg) (s : State) : Result := finish do
  let a ← readVec s pa.toNat
  let b ← readVec s pb.toNat
  writePoly s pd.toNat (polyVecAcc a b)

end Sys2Proof.Machine
end

