-- ==== Sys2Proof/Machine/Serial.lean ====
section
/-! DEFINITION. Serialisation, compression and message coding (spec/44_serial.md). Bit fields are taken with the
notation v[hi:lo] of R12, on unbounded integers. -/

namespace Sys2Proof.Machine

/-- Norm(c), a u16 (R291): c + q when c < 0, the low 16 bits of the sum. -/
def norm (c : Coef) : Nat := (wrap16 (c.toInt + if c.toInt < 0 then (Config.q : Int) else 0)).toNat

/-- Compress_d(x) (R294), for the multiplier m and the shift sh. -/
def compressWith (d m sh x : Nat) : Nat := ((((x <<< d) + 1665) * m) >>> sh) &&& (2 ^ d - 1)

/-- Compress_10 (R294): M = 1290167, S = 32. -/
def compress10 (x : Nat) : Nat := compressWith 10 1290167 32 x

/-- Compress_4 (R294): M = 80635, S = 28. -/
def compress4 (x : Nat) : Nat := compressWith 4 80635 28 x

/-- Compress_1 (R294): M = 80635, S = 28. -/
def compress1 (x : Nat) : Nat := compressWith 1 80635 28 x

/-- Decompress_d(y) (R296). -/
def decompress (d y : Nat) : Coef := wrap16 (((y * Config.q + 2 ^ (d - 1)) >>> d : Nat) : Int)

/-- Enc12: 256 coefficients to 384 bytes, two in three bytes (R292). -/
def enc12 (a : Poly) : List Byte :=
  (List.range 128).flatMap fun j =>
    let t0 := norm (coeffAt a (2 * j)) &&& 0xFFF
    let t1 := norm (coeffAt a (2 * j + 1)) &&& 0xFFF
    [toByte (bits t0 7 0), toByte (bits t0 11 8 ||| (bits t1 3 0 <<< 4)), toByte (bits t1 11 4)]

/-- Dec12: 384 bytes to 256 coefficients in [0, 4095] (R293). -/
def dec12 (b : List Byte) : Poly :=
  (List.range 128).flatMap fun j =>
    let b0 := byteAt b (3 * j)
    let b1 := byteAt b (3 * j + 1)
    let b2 := byteAt b (3 * j + 2)
    [BitVec.ofNat 16 (b0 ||| (bits b1 3 0 <<< 8)), BitVec.ofNat 16 (bits b1 7 4 ||| (b2 <<< 4))]

/-- Comp10: compress to 10 bits and pack, four coefficients in five bytes (R295). -/
def comp10 (a : Poly) : List Byte :=
  (List.range 64).flatMap fun j =>
    let t0 := compress10 (norm (coeffAt a (4 * j)))
    let t1 := compress10 (norm (coeffAt a (4 * j + 1)))
    let t2 := compress10 (norm (coeffAt a (4 * j + 2)))
    let t3 := compress10 (norm (coeffAt a (4 * j + 3)))
    [toByte (bits t0 7 0), toByte (bits t0 9 8 ||| (bits t1 5 0 <<< 2)), toByte (bits t1 9 6 ||| (bits t2 3 0 <<< 4)),
     toByte (bits t2 9 4 ||| (bits t3 1 0 <<< 6)), toByte (bits t3 9 2)]

/-- Decomp10: unpack 10-bit values and decompress them (R296). -/
def decomp10 (b : List Byte) : Poly :=
  (List.range 64).flatMap fun j =>
    let y0 := (byteAt b (5 * j) ||| (byteAt b (5 * j + 1) <<< 8)) &&& 0x3FF
    let y1 := ((byteAt b (5 * j + 1) >>> 2) ||| (byteAt b (5 * j + 2) <<< 6)) &&& 0x3FF
    let y2 := ((byteAt b (5 * j + 2) >>> 4) ||| (byteAt b (5 * j + 3) <<< 4)) &&& 0x3FF
    let y3 := ((byteAt b (5 * j + 3) >>> 6) ||| (byteAt b (5 * j + 4) <<< 2)) &&& 0x3FF
    [decompress 10 y0, decompress 10 y1, decompress 10 y2, decompress 10 y3]

/-- Comp4: compress to 4 bits and pack, two coefficients in a byte (R297). -/
def comp4 (a : Poly) : List Byte :=
  (List.range 128).map fun j =>
    toByte (compress4 (norm (coeffAt a (2 * j))) ||| (compress4 (norm (coeffAt a (2 * j + 1))) <<< 4))

/-- Decomp4: unpack 4-bit values and decompress them (R298). -/
def decomp4 (b : List Byte) : Poly :=
  (List.range 128).flatMap fun j =>
    [decompress 4 (bits (byteAt b j) 3 0), decompress 4 (bits (byteAt b j) 7 4)]

/-- FromMsg: bit j of byte i is coefficient 8i + j, 1665 or 0 (R299). -/
def fromMsg (m : List Byte) : Poly :=
  (List.range 32).flatMap fun i =>
    (List.range 8).map fun j => if bits (byteAt m i) j j = 1 then 1665 else 0

/-- ToMsg: bit j of byte i is Compress_1 of coefficient 8i + j (R300). -/
def toMsg (a : Poly) : List Byte :=
  (List.range 32).map fun i =>
    toByte ((List.range 8).foldl (fun x j => x ||| (compress1 (norm (coeffAt a (8 * i + j))) <<< j)) 0)

/-- One element operation of the packing commands: `stride` bytes at ARG0 + stride·i <- f(P[pa+i]) (R125, R290). -/
def packElem (f : Poly → List Byte) (stride : Nat) (pa : PReg) (i : Nat) (s : State) : Except Fault State := do
  let a ← readPoly s (pa.toNat + i)
  writeBytes s (arg0Off s + stride * i) (f a)

/-- One element operation of the unpacking commands: P[pd+i] <- f of the `stride` bytes at ARG0 + stride·i (R125,
R290). -/
def unpackElem (f : List Byte → Poly) (stride : Nat) (pd : PReg) (i : Nat) (s : State) : Except Fault State := do
  let b ← readBytes s (arg0Off s + stride * i) stride
  writePoly s (pd.toNat + i) (f b)

/-- TOBYTES (R292). -/
def execTobytes (v : Bool) (pa : PReg) (s : State) : Result := finish (forElems v (packElem enc12 384 pa) s)

/-- FROMBYTES (R293). -/
def execFrombytes (v : Bool) (pd : PReg) (s : State) : Result := finish (forElems v (unpackElem dec12 384 pd) s)

/-- COMPRESS10 (R295). -/
def execCompress10 (v : Bool) (pa : PReg) (s : State) : Result := finish (forElems v (packElem comp10 320 pa) s)

/-- DECOMPRESS10 (R296). -/
def execDecompress10 (v : Bool) (pd : PReg) (s : State) : Result := finish (forElems v (unpackElem decomp10 320 pd) s)

/-- COMPRESS4 (R297). -/
def execCompress4 (v : Bool) (pa : PReg) (s : State) : Result := finish (forElems v (packElem comp4 128 pa) s)

/-- DECOMPRESS4 (R298). -/
def execDecompress4 (v : Bool) (pd : PReg) (s : State) : Result := finish (forElems v (unpackElem decomp4 128 pd) s)

/-- FROMMSG (R299). -/
def execFrommsg (pd : PReg) (s : State) : Result := finish (forElems false (unpackElem fromMsg 32 pd) s)

/-- TOMSG (R300). -/
def execTomsg (pa : PReg) (s : State) : Result := finish (forElems false (packElem toMsg 32 pa) s)

end Sys2Proof.Machine
end

