-- ==== Sys2Proof/Machine/Sample.lean ====
section
/-! DEFINITION. Sampling (spec/45_sample.md): centred binomial noise and the rejection sampler. -/

namespace Sys2Proof.Machine

/-- The little-endian u32 of bytes 4i to 4i+3 (R331). -/
def le32 (b : List Byte) (i : Nat) : Nat :=
  byteAt b (4 * i) ||| (byteAt b (4 * i + 1) <<< 8) ||| (byteAt b (4 * i + 2) <<< 16) ||| (byteAt b (4 * i + 3) <<< 24)

/-- Cbd2(b), the centred binomial sampler with η = 2 (R331). -/
def cbd2 (b : List Byte) : Poly :=
  (List.range 32).flatMap fun i =>
    let t := le32 b i
    let d := (t &&& 0x55555555) + ((t >>> 1) &&& 0x55555555)
    (List.range 8).map fun j =>
      let x := (d >>> (4 * j)) &&& 3
      let y := (d >>> (4 * j + 2)) &&& 3
      wrap16 ((x : Int) - (y : Int))

/-- The candidate d1 of a triplet (R340). -/
def cand1 (s0 s1 : Byte) : Nat := s0.toNat ||| ((s1.toNat &&& 0x0F) <<< 8)

/-- The candidate d2 of a triplet (R340). -/
def cand2 (s1 s2 : Byte) : Nat := (s1.toNat >>> 4) ||| (s2.toNat <<< 4)

/-- Append a candidate if it is < q and fewer than 256 are accepted (R343). -/
def acceptCand (a : Poly) (d : Nat) : Poly :=
  if a.length < 256 ∧ d < Config.q then a ++ [BitVec.ofNat 16 d] else a

/-- SampleNTT's loop on a prefix of the candidate stream (R343): none while the prefix has not yielded 256 values. -/
def sampleLoop (a : Poly) : List Byte → Option Poly
  | s0 :: s1 :: s2 :: rest =>
    if a.length < 256 then sampleLoop (acceptCand (acceptCand a (cand1 s0 s1)) (cand2 s1 s2)) rest else some a
  | _ => if a.length < 256 then none else some a

/-- SampleNTT(M) on the first `blocks` blocks of XOF(M) (R102, R343). None: 256 values are not yet accepted; the sampler
terminates exactly when some number of blocks gives a polynomial (R342), and every such number gives the same one. -/
def sampleNtt (H : Config.HashFns) (blocks : Nat) (m : List Byte) : Option Poly :=
  sampleLoop [] (xofStream H m blocks)

/-- The message of matrix entry (i, j): seed‖col‖row, or seed‖row‖col when transposed (R344). -/
def entryMessage (rho : List Byte) (t : Bool) (i j : Nat) : List Byte :=
  if t then rho ++ [toByte i, toByte j] else rho ++ [toByte j, toByte i]

/-- Three results in order, none as soon as one is none. -/
def vec3Option {α : Type} (f : Nat → Option α) : Option (Vec3 α) := do
  let x0 ← f 0
  let x1 ← f 1
  let x2 ← f 2
  return ⟨x0, x1, x2⟩

/-- GenMatrix(ρ, T), row i of column entries j (R344), in the order of R346. -/
def genMatrix (H : Config.HashFns) (blocks : Nat) (rho : List Byte) (t : Bool) : Option (Vec3 (Vec3 Poly)) :=
  vec3Option fun i => vec3Option fun j => sampleNtt H blocks (entryMessage rho t i j)

/-- Run a command's rest with what HASH answers in this turn. While HASH is silent the ENGINE waits: the turn changes
nothing and the command stays BUSY (R100, U3; log entry 5). -/
def withHash (s : State) (k : Nat → Result) : Result :=
  match s.hash with
  | .silent => .next s
  | .answers blocks => k blocks

/-- Run a command's rest on what its samplers gave. While they have not 256 values each, the ENGINE step has not
happened: the turn changes nothing and the command stays BUSY (R203, R342, U2; log entry 5). -/
def whenSampled {α : Type} (s : State) (r : Option α) (k : α → Result) : Result :=
  match r with
  | none => .next s
  | some x => k x

/-- Read a command's input bytes before anything else (R93, R333, R346), then run the rest. -/
def withBytes (s : State) (a len : Nat) (k : List Byte → Result) : Result :=
  match readBytes s a len with
  | .error f => .fault f
  | .ok b => k b

/-- CBD2 (R332). -/
def execCbd2 (v : Bool) (pd : PReg) (s : State) : Result := finish (forElems v (unpackElem cbd2 128 pd) s)

/-- One element of GETNOISE: P[pd+i] <- Cbd2(PRF(seed, (N + i) mod 256)) (R125, R333). -/
def noiseElem (H : Config.HashFns) (seed : List Byte) (pd : PReg) (nonce : BitVec 8) (i : Nat) (s : State) :
    Except Fault State :=
  writePoly s (pd.toNat + i) (cbd2 (prf H seed (nonce + BitVec.ofNat 8 i)))

/-- GETNOISE (R333): the 32-byte seed at ARG0 is read once, before any register is written. -/
def execGetnoise (v : Bool) (pd : PReg) (nonce : BitVec 8) (s : State) : Result :=
  withBytes s (arg0Off s) 32 fun seed => withHash s fun _ =>
    finish (forElems v (noiseElem hashFns seed pd nonce) s)

/-- The 34-byte message of GENENTRY: the seed, x = ARG1[7:0], y = ARG1[15:8] (R345). -/
def genentryMessage (seed : List Byte) (s : State) : List Byte :=
  seed ++ [s.arg1.extractLsb' 0 8, s.arg1.extractLsb' 8 8]

/-- GENENTRY (R345). -/
def execGenentry (pd : PReg) (s : State) : Result :=
  withBytes s (arg0Off s) 32 fun seed => withHash s fun blocks =>
    whenSampled s (sampleNtt hashFns blocks (genentryMessage seed s)) fun p => finish (writePoly s pd.toNat p)

/-- P[n], P[n+1], P[n+2] <- a vector. -/
def writeVec (s : State) (n : Nat) (a : Vec3 Poly) : Except Fault State := do
  let s1 ← writePoly s n a.v0
  let s2 ← writePoly s1 (n + 1) a.v1
  writePoly s2 (n + 2) a.v2

/-- P[n + 3i + j] <- A[i][j] (R346). -/
def writeMatrix (s : State) (n : Nat) (a : Vec3 (Vec3 Poly)) : Except Fault State := do
  let s1 ← writeVec s n a.v0
  let s2 ← writeVec s1 (n + 3) a.v1
  writeVec s2 (n + 6) a.v2

/-- GENMATRIX (R346). -/
def execGenmatrix (pd : PReg) (t : Bool) (s : State) : Result :=
  withBytes s (arg0Off s) 32 fun seed => withHash s fun blocks =>
    whenSampled s (genMatrix hashFns blocks seed t) fun a => finish (writeMatrix s pd.toNat a)

end Sys2Proof.Machine
end

