-- ==== Sys2Proof/Machine/Ct.lean ====
section
/-! DEFINITION. The constant-time utilities (spec/46_ct.md): VERIFY and the conditional moves. -/

namespace Sys2Proof.Machine

/-- The 8-bit accumulator of R360: the OR of the per-byte XORs (conflict C3). -/
def verifyAcc (a b : List Byte) : Byte := (List.zipWith (· ^^^ ·) a b).foldl (· ||| ·) 0

/-- The collapse of R360: (zext_64(r) negated mod 2^64) >> 63, which is 1 if r ≠ 0, else 0. -/
def collapse (r : Byte) : Bool := ((0 - r.setWidth 64 : BitVec 64) >>> 63).getLsbD 0

/-- The VERIFY computation: false if the strings are equal, true if they differ (R360). -/
def verifyBytes (a b : List Byte) : Bool := collapse (verifyAcc a b)

/-- VERIFY (R360). -/
def execVerify (s : State) : Result := finish do
  let a ← readBytes s (arg0Off s) (arg2Len s)
  let b ← readBytes s (arg1Off s) (arg2Len s)
  return { s with ctflag := verifyBytes a b }

/-- CMOVB (R362): both strings are read first; every destination byte is written. -/
def execCmovb (csel : CSel) (s : State) : Result := finish do
  let d ← readBytes s (arg0Off s) (arg2Len s)
  let y ← readBytes s (arg1Off s) (arg2Len s)
  writeBytes s (arg0Off s) (List.zipWith (maskSelect (condition csel s)) d y)

/-- CMOV16 (R363): SR0 <- SB[15:0] when cond, else SA[15:0]. -/
def execCmov16 (csel : CSel) (s : State) : Result :=
  .next (complete { s with sr0 := sext32 (maskSelect (condition csel s) (lo16 s.sa) (lo16 s.sb)) })

/-- PCMOV (R364): the destination is read too, whatever cond is. -/
def execPcmov (v : Bool) (pd pa : PReg) (csel : CSel) (s : State) : Result :=
  finish (forElems v (zipElem (List.zipWith (maskSelect (condition csel s))) pd pd pa) s)

end Sys2Proof.Machine
end

