-- ==== Sys2Proof/Machine/Kem.lean ====
section
/-! DEFINITION. The KEM engine (spec/47_kem.md): the IND-CPA PKE core (R381 to R383) over any hash configuration, and the
commands KEYGEN, ENCAPS and DECAPS (R384 to R386). The result of a core function is none while a rejection sampler has
not finished within the blocks HASH delivered (R342). -/

namespace Sys2Proof.Machine

/-- ⟨f 0, f 1, f 2⟩: "for i in 0..2" of the pseudocode. -/
def vec3 {α : Type} (f : Nat → α) : Vec3 α := ⟨f 0, f 1, f 2⟩

/-- A function on each element. -/
def Vec3.mapAll {α β : Type} (f : α → β) (a : Vec3 α) : Vec3 β := ⟨f a.v0, f a.v1, f a.v2⟩

/-- A function on each pair of elements. -/
def Vec3.zipAll {α β γ : Type} (f : α → β → γ) (a : Vec3 α) (b : Vec3 β) : Vec3 γ :=
  ⟨f a.v0 b.v0, f a.v1 b.v1, f a.v2 b.v2⟩

/-- The bytes of three encodings, back to back. -/
def Vec3.concat (a : Vec3 (List Byte)) : List Byte := a.v0 ++ (a.v1 ++ a.v2)

/-- Cbd2(PRF(seed, nonce)). -/
def noise (H : Config.HashFns) (seed : List Byte) (nonce : Nat) : Poly := cbd2 (prf H seed (toByte nonce))

/-- PolyReduce(Ntt(a)), the pseudo-instruction PNTT on a value (R135). -/
def pntt (a : Poly) : Poly := polyReduce (ntt a)

/-- (ρ, σ) = G(d ‖ 3) (R381). -/
def keygenSeeds (H : Config.HashFns) (d : List Byte) : List Byte × List Byte := hashG H (d ++ [3])

/-- PKE_KeyGen(d) (R381): (pk, skc). -/
def pkeKeyGen (H : Config.HashFns) (blocks : Nat) (d : List Byte) : Option (List Byte × List Byte) := do
  let (rho, sigma) := keygenSeeds H d
  let a ← genMatrix H blocks rho false
  let s := vec3 fun i => noise H sigma i
  let e := vec3 fun i => noise H sigma (3 + i)
  let sHat := Vec3.mapAll pntt s
  let eHat := Vec3.mapAll pntt e
  let tHat := Vec3.mapAll (fun row => polyToMont (polyVecAcc row sHat)) a
  let tHat := Vec3.zipAll (fun t x => polyReduce (polyAdd t x)) tHat eHat
  return (Vec3.concat (Vec3.mapAll enc12 tHat) ++ rho, Vec3.concat (Vec3.mapAll enc12 sHat))

/-- PKE_Enc(pk, m, coins) (R382): the ciphertext. -/
def pkeEnc (H : Config.HashFns) (blocks : Nat) (pk m coins : List Byte) : Option (List Byte) := do
  let tHat := vec3 fun i => dec12 (slice pk (384 * i) (384 * i + 384))
  let rho := slice pk 1152 1184
  let aT ← genMatrix H blocks rho true
  let r := vec3 fun i => noise H coins i
  let e1 := vec3 fun i => noise H coins (3 + i)
  let e2 := noise H coins 6
  let rHat := Vec3.mapAll pntt r
  let u := Vec3.mapAll (fun row => intt (polyVecAcc row rHat)) aT
  let v := intt (polyVecAcc tHat rHat)
  let u := Vec3.zipAll (fun x e => polyReduce (polyAdd x e)) u e1
  let v := polyReduce (polyAdd (polyAdd v e2) (fromMsg m))
  return Vec3.concat (Vec3.mapAll comp10 u) ++ comp4 v

/-- PKE_Dec(skc, c) (R383): the message. -/
def pkeDec (skc c : List Byte) : List Byte :=
  let u := vec3 fun i => decomp10 (slice c (320 * i) (320 * i + 320))
  let v := decomp4 (slice c 960 1088)
  let sHat := vec3 fun i => dec12 (slice skc (384 * i) (384 * i + 384))
  let uHat := Vec3.mapAll pntt u
  let w := intt (polyVecAcc sHat uHat)
  toMsg (polyReduce (polySub v w))

/-- The two values KEYGEN writes, PK and SK = skc ‖ pk ‖ H(pk) ‖ z, from the coins d ‖ z (R48, R384). -/
def kemKeygen (H : Config.HashFns) (blocks : Nat) (coins : List Byte) : Option (List Byte × List Byte) := do
  let d := slice coins 0 32
  let z := slice coins 32 64
  let (pk, skc) ← pkeKeyGen H blocks d
  return (pk, skc ++ (pk ++ (hashH H pk ++ z)))

/-- The two values ENCAPS writes, CT and SS, from pk and m (R385). -/
def kemEncaps (H : Config.HashFns) (blocks : Nat) (pk m : List Byte) : Option (List Byte × List Byte) := do
  let (k, r) := hashG H (m ++ hashH H pk)
  let c ← pkeEnc H blocks pk m r
  return (c, k)

/-- The parts of a decapsulation key (R48, R386): skc, pk, h, z. -/
def skCpa (sk : List Byte) : List Byte := slice sk 0 1152
def skPk (sk : List Byte) : List Byte := slice sk 1152 2336
def skH (sk : List Byte) : List Byte := slice sk 2336 2368
def skZ (sk : List Byte) : List Byte := slice sk 2368 2400

/-- The value DECAPS writes to SS (R386): K' when c = c', else the fallback key J(z, c), chosen by the mask of R361. Both
are always computed. -/
def kemDecaps (H : Config.HashFns) (blocks : Nat) (sk c : List Byte) : Option (List Byte) := do
  let m' := pkeDec (skCpa sk) c
  let (k', r') := hashG H (m' ++ skH sk)
  let c' ← pkeEnc H blocks (skPk sk) m' r'
  let fail := verifyBytes c c'
  let kBar := hashJ H (skZ sk) c
  return List.zipWith (maskSelect fail) k' kBar

/-- KEYGEN (R384). -/
def execKeygen (s : State) : Result :=
  withBytes s coinsRegion.1 coinsRegion.2 fun coins => withHash s fun blocks =>
    whenSampled s (kemKeygen hashFns blocks coins) fun (pk, sk) => finish do
      let s1 ← writeBytes s pkRegion.1 pk
      writeBytes s1 skRegion.1 sk

/-- ENCAPS (R385). -/
def execEncaps (s : State) : Result :=
  withBytes s pkRegion.1 pkRegion.2 fun pk => withBytes s coinsRegion.1 32 fun m => withHash s fun blocks =>
    whenSampled s (kemEncaps hashFns blocks pk m) fun (c, k) => finish do
      let s1 ← writeBytes s ctRegion.1 c
      writeBytes s1 ssRegion.1 k

/-- DECAPS (R386): it writes SS alone, and nothing else shows whether c = c'. -/
def execDecaps (s : State) : Result :=
  withBytes s skRegion.1 skRegion.2 fun sk => withBytes s ctRegion.1 ctRegion.2 fun c => withHash s fun blocks =>
    whenSampled s (kemDecaps hashFns blocks sk c) fun k => finish (writeBytes s ssRegion.1 k)

end Sys2Proof.Machine
end

