-- ==== Sys2Proof/Machine/Dispatch.lean ====
section
/-! DEFINITION. One arm per command: the ENGINE step of that command (spec/40_control.md R203 steps 2 and 3). -/

namespace Sys2Proof.Machine

def exec (i : Instr) (s : State) : Host.Outcome State Fault Refusal :=
  match i with
  | .nop => Sys2Proof.Machine.execNop s
  | .montr => Sys2Proof.Machine.execMontr s
  | .barr => Sys2Proof.Machine.execBarr s
  | .fqmul => Sys2Proof.Machine.execFqmul s
  | .bflyf => Sys2Proof.Machine.execBflyf s
  | .bflyi => Sys2Proof.Machine.execBflyi s
  | .basemul => Sys2Proof.Machine.execBasemul s
  | .ntt v pd pa => Sys2Proof.Machine.execNtt v pd pa s
  | .intt v pd pa => Sys2Proof.Machine.execIntt v pd pa s
  | .padd v pd pa pb => Sys2Proof.Machine.execPadd v pd pa pb s
  | .psub v pd pa pb => Sys2Proof.Machine.execPsub v pd pa pb s
  | .preduce v pd pa => Sys2Proof.Machine.execPreduce v pd pa s
  | .ptomont v pd pa => Sys2Proof.Machine.execPtomont v pd pa s
  | .pbasemul v pd pa pb => Sys2Proof.Machine.execPbasemul v pd pa pb s
  | .pvacc pd pa pb => Sys2Proof.Machine.execPvacc pd pa pb s
  | .tobytes v pa => Sys2Proof.Machine.execTobytes v pa s
  | .frombytes v pd => Sys2Proof.Machine.execFrombytes v pd s
  | .compress10 v pa => Sys2Proof.Machine.execCompress10 v pa s
  | .decompress10 v pd => Sys2Proof.Machine.execDecompress10 v pd s
  | .compress4 v pa => Sys2Proof.Machine.execCompress4 v pa s
  | .decompress4 v pd => Sys2Proof.Machine.execDecompress4 v pd s
  | .frommsg pd => Sys2Proof.Machine.execFrommsg pd s
  | .tomsg pa => Sys2Proof.Machine.execTomsg pa s
  | .cbd2 v pd => Sys2Proof.Machine.execCbd2 v pd s
  | .getnoise v pd nonce => Sys2Proof.Machine.execGetnoise v pd nonce s
  | .genentry pd => Sys2Proof.Machine.execGenentry pd s
  | .genmatrix pd t => Sys2Proof.Machine.execGenmatrix pd t s
  | .verify => Sys2Proof.Machine.execVerify s
  | .cmovb csel => Sys2Proof.Machine.execCmovb csel s
  | .cmov16 csel => Sys2Proof.Machine.execCmov16 csel s
  | .pcmov v pd pa csel => Sys2Proof.Machine.execPcmov v pd pa csel s
  | .keygen => Sys2Proof.Machine.execKeygen s
  | .encaps => Sys2Proof.Machine.execEncaps s
  | .decaps => Sys2Proof.Machine.execDecaps s

end Sys2Proof.Machine
end

