-- ==== Sys2Proof/Machine/Engine.lean ====
section
/-! DEFINITION. One turn of the ENGINE and of the outside (spec/40_control.md R203, spec/20_memory.md R95). -/

namespace Sys2Proof.Machine

/-- The ENGINE's turn (R203): with a command pending and RST_N high it decodes PEND and performs that command; otherwise it
does nothing (R437, R460). -/
def engineTurn (s : State) : Result :=
  if s.rstN then
    match s.pend with
    | none => .next s
    | some w =>
      match decode w with
      | .error _ => .refused (.illegalPend w)
      | .ok i => exec i s
  else .next s

/-- What an event does (R95). -/
def handle (e : Event) (s : State) : Result :=
  match e with
  | .read addr => hostReadTurn addr s
  | .write addr d => hostWriteTurn addr d s
  | .engine h => engineTurn { s with hash := h }
  | .rstN level => .next (driveRstN level s)

/-- One step: the next event of the outside, or, when the outside has none left, a turn of the ENGINE (log entry 4). -/
def turn (s : State) : Result :=
  match s.events with
  | [] => engineTurn s
  | e :: rest => handle e { s with events := rest }

/-- `s` with word `w` latched in PEND, RST_N high, and the ENGINE's turn next: what it takes for the next step to run
that word's command (log entry 12). -/
def latchWord (w : Word) (s : State) : State :=
  { s with
    pend := some w
    rstN := true
    events := match s.events with
      | [] => []
      | evs => .engine s.hash :: evs }

end Sys2Proof.Machine
end

