-- ==== Sys2Proof/Machine/Step.lean ====
section
/-! DEFINITION. The machine's step, and how the host of the pipeline places one command. -/

namespace Sys2Proof.Machine

/-- One step of the block and its surroundings (spec/20_memory.md R95). -/
def step (s : State) : Host.Outcome State Fault Refusal := turn s

/-- `s` with the command word of `nbits` bits numbered `w` stored where the next step fetches: the latch PEND. -/
def State.withFetchWord (s : State) (nbits w : Nat) : State := latchWord (BitVec.ofNat 32 (w % 2 ^ nbits)) s

end Sys2Proof.Machine
end

