-- ==== Sys2Proof/Machine/HashPort.lean ====
section
/-! DEFINITION. The requests the ENGINE makes at its master port HASH (spec/20_memory.md R100, R103; the order of
spec/47_kem.md R389). They are what a completed ENGINE step has asked; no field of the state shows them. -/

namespace Sys2Proof.Machine

/-- A HASH request: the function id with its message, and the output length where the function has no fixed one. The
length of a SHAKE128 request is left out: it is the number of blocks squeezed, which is not observable (R102, U17). -/
inductive HashReq where
  | sha3_256 (m : List Byte)
  | sha3_512 (m : List Byte)
  | shake128 (m : List Byte)
  | shake256 (m : List Byte) (len : Nat)
  deriving DecidableEq, Repr

/-- What is public of a request (R472): its function id, its message length and its output length. -/
def HashReq.lengths : HashReq → Nat × Nat × Nat
  | .sha3_256 m => (0, m.length, 32)
  | .sha3_512 m => (1, m.length, 64)
  | .shake128 m => (2, m.length, 0)
  | .shake256 m len => (3, m.length, len)

/-- The request of PRF(seed, nonce) (R101). -/
def prfRequest (seed : List Byte) (nonce : Nat) : HashReq := .shake256 (seed ++ [toByte nonce]) 128

/-- The nine streams of a matrix, row by row (R346, R389). -/
def matrixRequests (rho : List Byte) (t : Bool) : List HashReq :=
  (List.range 3).flatMap fun i => (List.range 3).map fun j => .shake128 (entryMessage rho t i j)

/-- The requests of PKE_Enc (R382): the nine streams of Aᵀ, then PRF with nonces 0 to 6. -/
def encRequests (pk coins : List Byte) : List HashReq :=
  matrixRequests (slice pk 1152 1184) true ++ (List.range 7).map (prfRequest coins)

/-- KEYGEN's requests (R389): G(d ‖ 3), nine streams, PRF nonces 0 to 5, H(pk). -/
def keygenRequests (H : Config.HashFns) (blocks : Nat) (coins : List Byte) : List HashReq :=
  let d := slice coins 0 32
  let seeds := keygenSeeds H d
  .sha3_512 (d ++ [3]) :: matrixRequests seeds.1 false ++
    match pkeKeyGen H blocks d with
    | none => []
    | some (pk, _) => (List.range 6).map (prfRequest seeds.2) ++ [.sha3_256 pk]

/-- ENCAPS's requests (R389): H(pk), G(m ‖ H(pk)), nine streams, PRF nonces 0 to 6. -/
def encapsRequests (H : Config.HashFns) (pk m : List Byte) : List HashReq :=
  .sha3_256 pk :: .sha3_512 (m ++ hashH H pk) :: encRequests pk (hashG H (m ++ hashH H pk)).2

/-- DECAPS's requests (R389): G(m' ‖ h), nine streams, PRF nonces 0 to 6, J(z, c). -/
def decapsRequests (H : Config.HashFns) (sk c : List Byte) : List HashReq :=
  let g := pkeDec (skCpa sk) c ++ skH sk
  .sha3_512 g :: encRequests (skPk sk) (hashG H g).2 ++ [.shake256 (skZ sk ++ c) 32]

/-- The bytes a command reads at HASH's behalf; none are missing when its sources are defined. -/
def inputBytes (s : State) (a len : Nat) : List Byte :=
  match readBytes s a len with
  | .error _ => []
  | .ok b => b

/-- The HASH requests of a command's ENGINE step, in order (R103, R333, R345, R346, R389), with `blocks` blocks of each
stream delivered. -/
def hashRequests (H : Config.HashFns) (blocks : Nat) (i : Instr) (s : State) : List HashReq :=
  match i with
  | .getnoise v _ nonce =>
    (List.range (vSpan v)).map fun k =>
      .shake256 (inputBytes s (arg0Off s) 32 ++ [nonce + BitVec.ofNat 8 k]) 128
  | .genentry _ => [.shake128 (genentryMessage (inputBytes s (arg0Off s) 32) s)]
  | .genmatrix _ t => matrixRequests (inputBytes s (arg0Off s) 32) t
  | .keygen => keygenRequests H blocks (inputBytes s coinsRegion.1 coinsRegion.2)
  | .encaps => encapsRequests H (inputBytes s pkRegion.1 pkRegion.2) (inputBytes s coinsRegion.1 32)
  | .decaps => decapsRequests H (inputBytes s skRegion.1 skRegion.2) (inputBytes s ctRegion.1 ctRegion.2)
  | .nop | .montr | .barr | .fqmul | .bflyf | .bflyi | .basemul => []
  | .ntt _ _ _ | .intt _ _ _ | .padd _ _ _ _ | .psub _ _ _ _ | .preduce _ _ _ | .ptomont _ _ _ => []
  | .pbasemul _ _ _ _ | .pvacc _ _ _ => []
  | .tobytes _ _ | .frombytes _ _ | .compress10 _ _ | .decompress10 _ _ | .compress4 _ _ | .decompress4 _ _ => []
  | .frommsg _ | .tomsg _ | .cbd2 _ _ => []
  | .verify | .cmovb _ | .cmov16 _ | .pcmov _ _ _ _ => []

end Sys2Proof.Machine
end

