-- ==== Sys2Proof/Machine/HostProgram.lean ====
section
/-! DEFINITION. The host-level statements and pseudo-instructions of spec/30_encoding.md R135, as the events they put on
the bus, and the host's command loop (spec/40_control.md R210). -/

namespace Sys2Proof.Machine

/-- The CSRs `SET` may name, with their offsets (R32, R135). -/
inductive SetReg where
  | ctrl
  | arg0
  | arg1
  | arg2
  | sa
  | sb
  | sz
  | ctflag
  deriving DecidableEq, Repr

/-- The window offset of a register (R32). -/
def SetReg.offset : SetReg → BitVec 16
  | .ctrl => 0x008
  | .arg0 => 0x014
  | .arg1 => 0x018
  | .arg2 => 0x01C
  | .sa => 0x020
  | .sb => 0x024
  | .sz => 0x028
  | .ctflag => 0x034

/-- `WR off, val` (R135). -/
def wrStmt (off : BitVec 16) (val : Word) : List Event := [.write off val]

/-- `RD off` (R135). -/
def rdStmt (off : BitVec 16) : List Event := [.read off]

/-- `SET reg, val` (R135). -/
def setStmt (reg : SetReg) (val : Word) : List Event := wrStmt reg.offset val

/-- `WAIT` (R135), as the run in which the ENGINE takes its step before the host's STATUS read. -/
def waitStmt (h : HashTurn) : List Event := .engine h :: rdStmt 0x00C

/-- A command line `X`: `WR 0x010, enc(X)` then `WAIT` (R135, steps 2 and 3 of R210). -/
def cmdLine (h : HashTurn) (i : Instr) : List Event := wrStmt 0x010 (encode i) ++ waitStmt h

/-- `PNTT pd, pa` and `PNTT.V pd, pa` (R135). -/
def pnttStmt (h : HashTurn) (v : Bool) (pd pa : PReg) : List Event :=
  cmdLine h (.ntt v pd pa) ++ cmdLine h (.preduce v pd pd)

/-- `BCOPY` (R135). -/
def bcopyStmt (h : HashTurn) : List Event := setStmt .ctflag 1 ++ cmdLine h (.cmovb .f1)

/-- `PCOPY pd, pa` (R135). -/
def pcopyStmt (h : HashTurn) (pd pa : PReg) : List Event := setStmt .ctflag 1 ++ cmdLine h (.pcmov false pd pa .f1)

/-- Acknowledge DONE: step 5 of R210. -/
def ackDoneStmt : List Event := wrStmt 0x00C 0x2

end Sys2Proof.Machine
end

