-- ==== Sys2Proof/Safety.lean ====
section
/-! DEFINITION. The terms statements about the machine are made in: the invariant of a run, what a completed command
leaves alone, which faults are reads of undefined cells, when the samplers of a command finish. -/

namespace Sys2Proof.Machine

/-- The invariant of every run from reset: the memories keep their canonical form (R43, R46), SR0 and SR1 hold
sign-extended `s16` values (R40), LASTOP is the OP field of CMD (R36, R37), and a pending command is the word in CMD, passed
Check with the arguments as they stand, and has DONE = 0 and RST_N high (R200 to R202, R50, R460). -/
structure State.Inv (s : State) : Prop where
  bmem : Memory.wf s.bmem
  preg : PolyFile.wf s.preg
  sr0 : s.sr0 = sext32 (lo16 s.sr0)
  sr1 : s.sr1 = sext32 (lo16 s.sr1)
  lastop : s.lastop = opField s.cmd
  pend : ∀ w, s.pend = some w → w = s.cmd ∧ check w s = .ok ∧ s.done = false ∧ s.rstN = true

/-- A command has completed (R204). -/
def Completed (t : State) : Prop := t.pend = none ∧ t.done = true ∧ t.errcode = .ok

/-- What no command changes: the control and operand CSRs, ERR and OVR, LASTOP and CMD (R204, R38, R39), and the outside. -/
def ControlKept (s t : State) : Prop :=
  t.ie = s.ie ∧ t.err = s.err ∧ t.ovr = s.ovr ∧ t.lastop = s.lastop ∧ t.cmd = s.cmd ∧
  t.arg0 = s.arg0 ∧ t.arg1 = s.arg1 ∧ t.arg2 = s.arg2 ∧ t.sa = s.sa ∧ t.sb = s.sb ∧ t.sz = s.sz ∧
  t.rstN = s.rstN ∧ t.hash = s.hash ∧ t.events = s.events ∧ t.resp = s.resp

/-- The result registers and the condition bit are unchanged. -/
def ResultsKept (s t : State) : Prop := t.sr0 = s.sr0 ∧ t.sr1 = s.sr1 ∧ t.ctflag = s.ctflag

/-- Every coefficient of every register outside r, …, r + span − 1 is unchanged, undefined ones included. -/
def PregKeptOutside (s t : State) (r span : Nat) : Prop :=
  ∀ k, (k < 256 * r ∨ 256 * (r + span) ≤ k) → readCell t.preg k = readCell s.preg k

/-- Every byte outside a, …, a + len − 1 is unchanged, undefined ones included. -/
def BmemKeptOutside (s t : State) (a len : Nat) : Prop :=
  ∀ k, (k < a ∨ a + len ≤ k) → byteOf t k = byteOf s k

/-- A fault that is the read of a cell undefined in `s` (R51, U1). -/
def Fault.UndefinedIn (f : Fault) (s : State) : Prop :=
  (∃ a, f = .undefinedByte a ∧ a < 8192 ∧ byteOf s a = none) ∨
  (∃ n j, f = .undefinedCoeff n j ∧ n < 32 ∧ j < 256 ∧ coeffOf s n j = none)

/-- The rejection samplers a command runs finish within the blocks HASH delivers (R342); true of every command that runs
none. -/
def samplersFinish (blocks : Nat) (i : Instr) (s : State) : Bool :=
  match i with
  | .genentry _ => (sampleNtt hashFns blocks (genentryMessage (inputBytes s (arg0Off s) 32) s)).isSome
  | .genmatrix _ t => (genMatrix hashFns blocks (inputBytes s (arg0Off s) 32) t).isSome
  | .keygen => (kemKeygen hashFns blocks (inputBytes s coinsRegion.1 coinsRegion.2)).isSome
  | .encaps => (kemEncaps hashFns blocks (inputBytes s pkRegion.1 pkRegion.2) (inputBytes s coinsRegion.1 32)).isSome
  | .decaps =>
    (kemDecaps hashFns blocks (inputBytes s skRegion.1 skRegion.2) (inputBytes s ctRegion.1 ctRegion.2)).isSome
  | .nop | .montr | .barr | .fqmul | .bflyf | .bflyi | .basemul => true
  | .ntt _ _ _ | .intt _ _ _ | .padd _ _ _ _ | .psub _ _ _ _ | .preduce _ _ _ | .ptomont _ _ _ => true
  | .pbasemul _ _ _ _ | .pvacc _ _ _ => true
  | .tobytes _ _ | .frombytes _ _ | .compress10 _ _ | .decompress10 _ _ | .compress4 _ _ | .decompress4 _ _ => true
  | .frommsg _ | .tomsg _ | .cbd2 _ _ | .getnoise _ _ _ => true
  | .verify | .cmovb _ | .cmov16 _ | .pcmov _ _ _ _ => true

/-- Bit i of a byte string: bit 0 is the least significant of byte 0 (R12, R80). -/
def bitAt (b : List Byte) (i : Nat) : Bool := (b.getD (i / 8) 0).getLsbD (i % 8)

/-- Part i of a string of parts of `len` bytes (R290, R381 to R383). -/
def part (len i : Nat) (b : List Byte) : List Byte := (b.drop (len * i)).take len

/-- round(2^d·x/q) mod 2^d, rounding half up: Compress_d on [0, q) (R294). -/
def roundCompress (d x : Nat) : Nat := (2 * 2 ^ d * x + 3329) / (2 * 3329) % 2 ^ d

/-- brv7(i), the 7 bits of i in reverse (R242). -/
def brv7 (i : Nat) : Nat := (List.range 7).foldl (fun x b => 2 * x + i / 2 ^ b % 2) 0

/-- A stage of the forward transform, its 128 butterflies at once: block b has the twiddle 128/len + b (R243). -/
def nttStage (a : Poly) (len : Nat) : Poly :=
  (List.range 256).map fun j =>
    let z := zeta (128 / len + j / (2 * len))
    if j % (2 * len) < len then a.getD j 0 + fqmul z (a.getD (j + len) 0)
    else a.getD (j - len) 0 - fqmul z (a.getD j 0)

/-- A stage of the inverse transform, its 128 butterflies at once: block b has the twiddle 256/len − 1 − b (R244). -/
def inttStage (a : Poly) (len : Nat) : Poly :=
  (List.range 256).map fun j =>
    let z := zeta (256 / len - 1 - j / (2 * len))
    if j % (2 * len) < len then barrett (a.getD j 0 + a.getD (j + len) 0)
    else fqmul z (a.getD j 0 - a.getD (j - len) 0)

/-- Coefficient j of the product of a and b in Z[X]/(X^256 + 1) (R247). -/
def ringProduct (a b : Poly) (j : Nat) : Int :=
  ((List.range 256).map fun i =>
    if i ≤ j then (a.getD i 0).toInt * (b.getD (j - i) 0).toInt
    else -((a.getD i 0).toInt * (b.getD (256 + j - i) 0).toInt)).sum

/-- Cbd2(PRF(seed, n)) (R101, R331), with FIPS 202's SHAKE256 (log entry 2). -/
def prfNoise (seed : List Byte) (n : Nat) : Poly := cbd2 (hashFns.shake256 (seed ++ [BitVec.ofNat 8 n]) 128)

/-- PolyReduce(Ntt(Cbd2(PRF(seed, n)))) (R381, R382). -/
def prfNoiseHat (seed : List Byte) (n : Nat) : Poly := polyReduce (ntt (prfNoise seed n))

/-- The vector f 0, f 1, f 2. -/
def vecOf (f : Nat → Poly) : Vec3 Poly := ⟨f 0, f 1, f 2⟩

/-- A is GenMatrix(ρ, T), sampled within the delivered blocks (R344). -/
def IsMatrix (blocks : Nat) (rho : List Byte) (t : Bool) (A : Nat → Nat → Poly) : Prop :=
  ∀ i j, i < 3 → j < 3 →
    sampleNtt hashFns blocks
      (rho ++ if t then [BitVec.ofNat 8 i, BitVec.ofNat 8 j] else [BitVec.ofNat 8 j, BitVec.ofNat 8 i]) = some (A i j)

/-- (pk, skc) are the keys of PKE_KeyGen on the seeds ρ, σ and A = GenMatrix(ρ, 0) (R381): part i of skc is ŝ[i], part i
of pk is A[i]·ŝ + ê[i] mod q, the R⁻¹ of the product cancelled, and pk ends with ρ. -/
structure IsKeyPair (A : Nat → Nat → Poly) (rho sigma pk skc : List Byte) : Prop where
  pkLength  : pk.length = 1184
  skcLength : skc.length = 1152
  seed      : pk.drop 1152 = rho
  secretKey : ∀ i, i < 3 → dec12 (part 384 i skc) = prfNoiseHat sigma i
  publicKey : ∀ i j, i < 3 → j < 256 →
    ((dec12 (part 384 i pk)).getD j 0).toInt =
      (((polyVecAcc (vecOf (A i)) (vecOf (prfNoiseHat sigma))).getD j 0).toInt * 65536 +
        ((prfNoiseHat sigma (3 + i)).getD j 0).toInt) % 3329

/-- c is the ciphertext of PKE_Enc on pk, m and coins, with A = GenMatrix(ρ, 1) of pk's ρ (R382): 10-bit field j of part
i is coefficient j of Intt(A[i]·r̂) + e1[i] compressed, and 4-bit field j of the last 128 bytes that of
Intt(t̂·r̂) + e2 + m. -/
structure IsCiphertext (A : Nat → Nat → Poly) (pk m coins c : List Byte) : Prop where
  length : c.length = 1088
  u : ∀ i j k, i < 3 → j < 256 → k < 10 →
    bitAt c (2560 * i + 10 * j + k) =
      (roundCompress 10
        ((((intt (polyVecAcc (vecOf (A i)) (vecOf (prfNoiseHat coins)))).getD j 0).toInt +
          ((prfNoise coins (3 + i)).getD j 0).toInt) % 3329).toNat).testBit k
  v : ∀ j k, j < 256 → k < 4 →
    bitAt c (7680 + 4 * j + k) =
      (roundCompress 4
        ((((intt (polyVecAcc (vecOf fun i => dec12 (part 384 i pk)) (vecOf (prfNoiseHat coins)))).getD j 0).toInt +
          ((prfNoise coins 6).getD j 0).toInt + (if bitAt m j then 1665 else 0)) % 3329).toNat).testBit k

/-- m is the message of PKE_Dec on skc and c (R383, R300): bit j says that coefficient j of v − Intt(ŝ·û), mod q, lies in
[833, 2496]. -/
structure IsDecryption (skc c m : List Byte) : Prop where
  length : m.length = 32
  bits : ∀ j, j < 256 →
    let uHat := vecOf fun i => polyReduce (ntt (decomp10 (part 320 i c)))
    let w := intt (polyVecAcc (vecOf fun i => dec12 (part 384 i skc)) uHat)
    let x := (((decomp4 (c.drop 960)).getD j 0).toInt - (w.getD j 0).toInt) % 3329
    bitAt m j = decide (833 ≤ x ∧ x ≤ 2496)

/-- The candidates of a stream, d1 and d2 of each triplet in turn (R340), accepted or not. -/
def candidates (b : List Byte) : List Nat :=
  (List.range (b.length / 3)).flatMap fun j =>
    let s0 := (b.getD (3 * j) 0).toNat
    let s1 := (b.getD (3 * j + 1) 0).toNat
    let s2 := (b.getD (3 * j + 2) 0).toNat
    [s0 + 256 * (s1 % 16), s1 / 16 + 16 * s2]

/-- The HASH requests of each command, in order, by function id (0 SHA3_256, 1 SHA3_512, 2 SHAKE128, 3 SHAKE256), message
length and output length (R333, R345, R346, R389); a SHAKE128 request has length 0 (R102, log entry 15). -/
def hashShape (i : Instr) : List (Nat × Nat × Nat) :=
  let streams := List.replicate 9 (2, 34, 0)
  let prfs (n : Nat) := List.replicate n (3, 33, 128)
  match i with
  | .getnoise v _ _ => prfs (if v then 3 else 1)
  | .genentry _ => [(2, 34, 0)]
  | .genmatrix _ _ => streams
  | .keygen => (1, 33, 64) :: streams ++ prfs 6 ++ [(0, 1184, 32)]
  | .encaps => (0, 1184, 32) :: (1, 64, 64) :: streams ++ prfs 7
  | .decaps => (1, 64, 64) :: streams ++ prfs 7 ++ [(3, 1120, 32)]
  | .nop | .montr | .barr | .fqmul | .bflyf | .bflyi | .basemul | .verify | .cmovb _ | .cmov16 _ => []
  | .ntt _ _ _ | .intt _ _ _ | .preduce _ _ _ | .ptomont _ _ _ | .pvacc _ _ _ => []
  | .padd _ _ _ _ | .psub _ _ _ _ | .pbasemul _ _ _ _ | .pcmov _ _ _ _ => []
  | .tobytes _ _ | .compress10 _ _ | .compress4 _ _ | .tomsg _ | .frommsg _ => []
  | .frombytes _ _ | .decompress10 _ _ | .decompress4 _ _ | .cbd2 _ _ => []

/-- A coefficient the command reads is undefined in `s` and stays so until its element reads it: register `r.1 + k` of a
source is read by element k of a V form, after elements 0 to k − 1 have written the first k destination registers (R93,
R125). -/
def UndefinedCoeffSource (i : Instr) (s : State) : Prop :=
  ∃ r ∈ i.sourceRegs, ∃ k, k < r.2 ∧
    (i.vBit = true → ∀ d ∈ i.destRegs, r.1 + k < d.1 ∨ d.1 + k ≤ r.1 + k) ∧
    ∃ j, j < 256 ∧ coeffOf s (r.1 + k) j = none

/-- A byte the command reads is undefined in `s`; no command with a V form writes bytes it reads. -/
def UndefinedByteSource (i : Instr) (s : State) : Prop :=
  ∃ r ∈ sourceRegions i s, ∃ a, r.1 ≤ a ∧ a < r.1 + r.2 ∧ byteOf s a = none

/-- Run one meaning on the state another leaves; a stop ends the run. -/
def Result.andThen (r : Result) (f : State → Result) : Result :=
  match r with
  | .next s => f s
  | .fault e => .fault e
  | .refused e => .refused e

/-- ARG0 moved on by `d` bytes: the operand of a later element of a strided V form (R125). -/
def advanceArg0 (d : Nat) (s : State) : State := { s with arg0 := s.arg0 + BitVec.ofNat 32 d }

/-- The state after `s` with ARG0 put back to `a`. -/
def restoreArg0 (a : Word) (s : State) : State := { s with arg0 := a }

end Sys2Proof.Machine
end

