-- ==== Sys2Proof/Certificates/Slice0/Obligations.lean ====
section
/-! DEFINITION. The statements about the machine, by the spec's rules: encoding, command lifecycle, ENGINE step, the
result of every command, frames, stops, the host bus, reset, and the facts of the arithmetic and the sampler. A completion
statement concludes that exec answers a next state, for every state meeting hypotheses on state and operands alone. -/

open Sys2Proof Sys2Proof.Machine

/-! ### Encoding -/

/-- R121, R130, R134: no bit of an encoding is dropped. -/
def Obligations.DecodeOfEncodeIsTheInstruction : Prop :=
  ∀ i : Instr, decode (encode i) = .ok i

/-- R129: the words that decode are those that match a row of R130 under its mask. -/
def Obligations.LegalWordsMatchTheirMask : Prop :=
  ∀ w : Word, (∃ i, decode w = .ok i) ↔ legal w = true

/-- R122, R126: a word is its command's used bits, and the bits it ignores may hold anything. -/
def Obligations.IgnoredFieldsHaveNoEffect : Prop :=
  ∀ (w x : Word) (i : Instr), decode w = .ok i →
    encode i = w &&& i.usedBits ∧ decode ((w &&& i.usedBits) ||| (x &&& ~~~i.usedBits)) = .ok i

/-- R121 and R130: words of each family, written out bit by bit (spec/95_test_vectors.md sections 2.1 and 4). -/
def Obligations.WrittenOutWordsDecode : Prop :=
  decode 0b00000000_0_00000_00000_00000_00000000#32 = .ok .nop ∧
  decode 0b00000000_0_00000_00000_00000_00000011#32 = .ok .fqmul ∧
  decode 0b00000000_1_00000_11101_11101_00010000#32 = .ok (.ntt true 29 29) ∧
  decode 0b00000000_1_00011_00000_11110_00010010#32 = .ok (.padd true 30 0 3) ∧
  decode 0b00000000_0_00000_00100_00000_00100000#32 = .ok (.tobytes false 4) ∧
  decode 0b00000011_1_00000_00000_00011_00110001#32 = .ok (.getnoise true 3 3) ∧
  decode 0b00000001_1_00000_00011_00000_01000011#32 = .ok (.pcmov true 0 3 .f0) ∧
  decode 0b00000000_0_00000_00000_00000_01010010#32 = .ok .decaps ∧
  decode 0b00000000_1_00000_00000_00000_00000011#32 = .error (.vNotAllowed 3) ∧
  decode 0b00000010_0_00000_00000_00000_01000001#32 = .error (.cselReserved 0x41) ∧
  decode 0b00000000_0_00000_00000_00000_11111111#32 = .error (.unknownOp 0xFF)

/-! ### Issue, check, accept, reject -/

/-- R200, R201, R205: a word written to CMD while no command is pending is stored, checked, and accepted or rejected, in
one step; nothing else changes. IRQ falls on acceptance and, with IE = 1, rises on rejection. -/
def Obligations.CmdWriteIssuesTheWord : Prop :=
  ∀ (s : State) (w : Word) (rest : List Event), s.events = .write 0x010 w :: rest → s.rstN = true → s.pend = none →
    let stored := { s with events := rest, resp := some ⟨none, false⟩, cmd := w, lastop := w.extractLsb' 0 8 }
    (check w s = .ok →
      step s = .next { stored with pend := some w, done := false } ∧
      irq { stored with pend := some w, done := false } = false) ∧
    (check w s ≠ .ok →
      step s = .next { stored with errcode := check w s, err := true, done := true } ∧
      irq { stored with errcode := check w s, err := true, done := true } = s.ie)

/-- R425, R37: a CMD write while BUSY = 1 sets OVR and changes nothing else, so it raises no IRQ and does not touch the
running command. -/
def Obligations.CmdWriteWhileBusyIsAnOverrun : Prop :=
  ∀ (s : State) (w : Word) (rest : List Event), s.events = .write 0x010 w :: rest → s.rstN = true → s.pend ≠ none →
    step s = .next { s with events := rest, resp := some ⟨none, false⟩, ovr := true }

/-- R202: Check returns the first failing code, in the order 1, 2, 3. -/
def Obligations.CheckReturnsTheFirstFailingCode : Prop :=
  ∀ (w : Word) (s : State),
    (legal w = false → check w s = .illegalCmd) ∧
    ∀ i, decode w = .ok i →
      ((∃ r ∈ i.usedRegs, r.1 + r.2 - 1 > 31) → check w s = .pregRange) ∧
      ((∀ r ∈ i.usedRegs, r.1 + r.2 - 1 ≤ 31) → (∃ r ∈ regions i s, r.1 + r.2 > 8192) → check w s = .bmemRange) ∧
      ((∀ r ∈ i.usedRegs, r.1 + r.2 - 1 ≤ 31) → (∀ r ∈ regions i s, r.1 + r.2 ≤ 8192) → check w s = .ok)

/-- R202: the spans of the register commands, and the commands that are never rejected for range. -/
def Obligations.RangeChecksOfRegisterCommands : Prop :=
  ∀ (s : State) (v : Bool) (pd pa pb : PReg) (csel : CSel),
    let last := if v then 2 else 0
    (∀ i ∈ [Instr.ntt v pd pa, .intt v pd pa, .preduce v pd pa, .ptomont v pd pa, .pcmov v pd pa csel],
      check (encode i) s = if pd.toNat + last > 31 ∨ pa.toNat + last > 31 then .pregRange else .ok) ∧
    (∀ i ∈ [Instr.padd v pd pa pb, .psub v pd pa pb, .pbasemul v pd pa pb],
      check (encode i) s =
        if pd.toNat + last > 31 ∨ pa.toNat + last > 31 ∨ pb.toNat + last > 31 then .pregRange else .ok) ∧
    check (encode (.pvacc pd pa pb)) s = (if pa.toNat > 29 ∨ pb.toNat > 29 then .pregRange else .ok) ∧
    (∀ i ∈ [Instr.nop, .montr, .barr, .fqmul, .bflyf, .bflyi, .basemul, .cmov16 csel, .keygen, .encaps, .decaps],
      check (encode i) s = .ok)

/-- R202: the regions of the byte commands, tripled by V except GETNOISE's, on unbounded integers. -/
def Obligations.RangeChecksOfByteCommands : Prop :=
  ∀ (s : State) (v t : Bool) (r : PReg) (nonce : BitVec 8) (csel : CSel),
    let n := if v then 3 else 1
    let strided (len : Nat) : ErrCode :=
      if r.toNat + n - 1 > 31 then .pregRange else if s.arg0.toNat + len * n > 8192 then .bmemRange else .ok
    let seed : ErrCode := if s.arg0.toNat + 32 > 8192 then .bmemRange else .ok
    let pair : ErrCode :=
      if s.arg0.toNat + s.arg2.toNat > 8192 ∨ s.arg1.toNat + s.arg2.toNat > 8192 then .bmemRange else .ok
    (∀ i ∈ [Instr.tobytes v r, .frombytes v r], check (encode i) s = strided 384) ∧
    (∀ i ∈ [Instr.compress10 v r, .decompress10 v r], check (encode i) s = strided 320) ∧
    (∀ i ∈ [Instr.compress4 v r, .decompress4 v r, .cbd2 v r], check (encode i) s = strided 128) ∧
    check (encode (.getnoise v r nonce)) s = (if r.toNat + n - 1 > 31 then .pregRange else seed) ∧
    (∀ i ∈ [Instr.frommsg r, .tomsg r, .genentry r], check (encode i) s = seed) ∧
    check (encode (.genmatrix r t)) s = (if r.toNat > 23 then .pregRange else seed) ∧
    (∀ i ∈ [Instr.verify, .cmovb csel], check (encode i) s = pair)

/-! ### The ENGINE's step -/

/-- R203: the ENGINE decodes PEND and performs that command at its turn. That it takes a turn when the outside has no
event left is the model's choice (log entry 4), and so is that an ENGINE event says what HASH does in it (log entry 3). -/
def Obligations.StepRunsThePendingCommand : Prop :=
  ∀ (s : State) (w : Word) (i : Instr), s.rstN = true → s.pend = some w → decode w = .ok i →
    (s.events = [] → step s = exec i s) ∧
    (∀ h rest, s.events = .engine h :: rest → step s = exec i { s with hash := h, events := rest })

/-- R437, R203: with no command pending the ENGINE does nothing and the block keeps all state. The same while RST_N is
low is the model's reading (log entry 6: R460 gives no state then); the turn with no event left and the HASH field of an
ENGINE event are the model's choices (log entries 4, 3). -/
def Obligations.IdleBlockKeepsItsState : Prop :=
  ∀ s : State, (s.pend = none ∨ s.rstN = false) →
    (s.events = [] → step s = .next s) ∧
    (∀ h rest, s.events = .engine h :: rest → step s = .next { s with hash := h, events := rest })

/-! ### Results: control and field unit -/

/-- R208, R204: NOP completes and does nothing else. -/
def Obligations.NopOnlyCompletes : Prop :=
  ∀ s : State, exec .nop s = .next { s with pend := none, done := true, errcode := .ok }

/-- R227, R221, R233: MONTR writes SR0 with MontR(SA): with t the low 16 bits of SA·QINV, signed, (SA − t·q)/2^16 wrapped
to 16 bits, an exact division. It wraps nothing, so it is SA·2^−16 mod q, while |SA| ≤ 2038333440, and lies in (−q, q)
while |SA| < q·2^15; the two corner cases wrap. SR1 and everything else stays. -/
def Obligations.MontrReducesSa : Prop :=
  ∀ s : State, ∃ r : Coef,
    exec .montr s = .next { s with sr0 := r.signExtend 32, pend := none, done := true, errcode := .ok } ∧
    (let t := ((s.sa * 62209).extractLsb' 0 16).toInt
     (s.sa.toInt - t * 3329) % 65536 = 0 ∧ r = BitVec.ofInt 16 ((s.sa.toInt - t * 3329) / 65536) ∧
     (-2038333440 ≤ s.sa.toInt → s.sa.toInt ≤ 2038333440 →
       r.toInt * 65536 = s.sa.toInt - t * 3329 ∧ (r.toInt * 65536 - s.sa.toInt) % 3329 = 0)) ∧
    (-109084672 < s.sa.toInt → s.sa.toInt < 109084672 → -3329 < r.toInt ∧ r.toInt < 3329) ∧
    (s.sa = 0x7FFFFFFF → r.toInt = 32599) ∧ (s.sa = 0x80000000 → r.toInt = -32768)

/-- R228, R222: BARR writes SR0 with SA[15:0] mod q, in [0, q); R222's realisation with v = 20159 computes the same value
on every `s16`. -/
def Obligations.BarrIsModQ : Prop :=
  (∀ s : State, ∃ r : Coef,
    exec .barr s = .next { s with sr0 := r.signExtend 32, pend := none, done := true, errcode := .ok } ∧
    r.toInt = (s.sa.extractLsb' 0 16).toInt % 3329) ∧
  ∀ a : Coef, barrettRealised a = barrett a ∧ (barrett a).toInt = a.toInt % 3329

/-- R229, R223, R221: FQMUL writes SR0 with fqmul(a, b) of SA[15:0] and SB[15:0]; with t the low 16 bits of a·b·QINV,
signed, fqmul(a, b)·2^16 = a·b − t·q exactly, so it is congruent to a·b·2^−16 mod q, and its magnitude is at most
2^14 + 1664. -/
def Obligations.FqmulIsTheMontgomeryProduct : Prop :=
  (∀ s : State, exec .fqmul s = .next { s with
    sr0 := (fqmul (s.sa.extractLsb' 0 16) (s.sb.extractLsb' 0 16)).signExtend 32
    pend := none, done := true, errcode := .ok }) ∧
  ∀ a b : Coef,
    (fqmul a b).toInt * 65536 = a.toInt * b.toInt - (a * b * 62209).toInt * 3329 ∧
    ((fqmul a b).toInt * 65536 - a.toInt * b.toInt) % 3329 = 0 ∧
    -18048 ≤ (fqmul a b).toInt ∧ (fqmul a b).toInt ≤ 18048

/-- R230, R231, R232: the butterflies and BASEMUL write SR0 and SR1; sums wrap in 16 bits. -/
def Obligations.ButterfliesAndBasemulWriteBothResults : Prop :=
  ∀ s : State,
    let a := s.sa.extractLsb' 0 16
    let a1 := s.sa.extractLsb' 16 16
    let b := s.sb.extractLsb' 0 16
    let b1 := s.sb.extractLsb' 16 16
    let z := s.sz.extractLsb' 0 16
    let result (x y : Coef) : State :=
      { s with sr0 := x.signExtend 32, sr1 := y.signExtend 32, pend := none, done := true, errcode := .ok }
    exec .bflyf s = .next (result (a + fqmul z b) (a - fqmul z b)) ∧
    exec .bflyi s = .next (result (barrett (a + b)) (fqmul z (b - a))) ∧
    exec .basemul s = .next (result (fqmul (fqmul a1 b1) z + fqmul a b) (fqmul a b1 + fqmul a1 b))

/-! ### Results: polynomials -/

/-- R245, R246, R204 and the frame: the single forms of NTT and INTT write P[pd] alone, in place too; R244: every
coefficient INTT writes lies in (−q, q). R243, R244, R224, R225: each transform is its seven stages, to the bit, and INTT
ends with a multiplication by 1441. -/
def Obligations.TransformsWriteTheirDestination : Prop :=
  (∀ (s : State) (pd pa : PReg) (a : Poly), readPoly s pa.toNat = .ok a →
    (∀ c ∈ [(Instr.ntt false pd pa, ntt a), (.intt false pd pa, intt a)],
      ∃ t, exec c.1 s = .next t ∧ readPoly t pd.toNat = .ok c.2 ∧ Completed t ∧ ControlKept s t ∧ ResultsKept s t ∧
        PregKeptOutside s t pd.toNat 1 ∧ ∀ k, byteOf t k = byteOf s k) ∧
    ∀ c ∈ intt a, -3329 < c.toInt ∧ c.toInt < 3329) ∧
  ∀ a : Poly, a.length = 256 →
    ntt a = [128, 64, 32, 16, 8, 4, 2].foldl nttStage a ∧
    intt a = ([2, 4, 8, 16, 32, 64, 128].foldl inttStage a).map fun c => fqmul c 1441

/-- R264, R265: PREDUCE leaves x mod q, in [0, q), and PTOMONT MontR(x·1353), a value congruent to x·2^16 mod q, in
(−q, q), in every coefficient of P[pd]; neither writes anything else. -/
def Obligations.PreduceAndPtomontReduceEveryCoefficient : Prop :=
  ∀ (s : State) (pd pa : PReg) (a : Poly), readPoly s pa.toNat = .ok a →
    (∃ t p, exec (.preduce false pd pa) s = .next t ∧ readPoly t pd.toNat = .ok p ∧
      (∀ j, j < 256 → (p.getD j 0).toInt = (a.getD j 0).toInt % 3329) ∧
      Completed t ∧ ControlKept s t ∧ ResultsKept s t ∧ PregKeptOutside s t pd.toNat 1 ∧
      ∀ k, byteOf t k = byteOf s k) ∧
    ∃ t p, exec (.ptomont false pd pa) s = .next t ∧ readPoly t pd.toNat = .ok p ∧
      (∀ j, j < 256 →
        (p.getD j 0).toInt * 65536 = (a.getD j 0).toInt * 1353 - (a.getD j 0 * 1353 * 62209).toInt * 3329 ∧
        ((p.getD j 0).toInt - (a.getD j 0).toInt * 65536) % 3329 = 0 ∧
        -3329 < (p.getD j 0).toInt ∧ (p.getD j 0).toInt < 3329) ∧
      Completed t ∧ ControlKept s t ∧ ResultsKept s t ∧ PregKeptOutside s t pd.toNat 1 ∧
      ∀ k, byteOf t k = byteOf s k

/-- R262, R263: PADD and PSUB add and subtract coefficientwise mod 2^16, with no reduction. -/
def Obligations.PaddAndPsubWrapCoefficientwise : Prop :=
  ∀ (s : State) (pd pa pb : PReg) (a b : Poly), readPoly s pa.toNat = .ok a → readPoly s pb.toNat = .ok b →
    ∀ c ∈ [(Instr.padd false pd pa pb, List.zipWith (· + ·) a b), (.psub false pd pa pb, List.zipWith (· - ·) a b)],
      ∃ t, exec c.1 s = .next t ∧ readPoly t pd.toNat = .ok c.2 ∧ Completed t ∧ ControlKept s t ∧ ResultsKept s t ∧
        PregKeptOutside s t pd.toNat 1 ∧ ∀ k, byteOf t k = byteOf s k

/-- R266, R261, R268, R267: PBASEMUL writes the 128 base products, pair 2i with ZETAS[64+i] and pair 2i+1 with its
negative; PVACC writes the reduced inner product of two vectors, reading all six sources first. -/
def Obligations.ProductsWriteTheirDestination : Prop :=
  ∀ (s : State) (pd pa pb : PReg),
    (∀ a b : Poly, readPoly s pa.toNat = .ok a → readPoly s pb.toNat = .ok b →
      ∃ t p, exec (.pbasemul false pd pa pb) s = .next t ∧ readPoly t pd.toNat = .ok p ∧
        (∀ j, j < 128 →
          let z := if j % 2 = 0 then zeta (64 + j / 2) else -(zeta (64 + j / 2))
          let r := baseMul2 (a.getD (2 * j) 0) (a.getD (2 * j + 1) 0) (b.getD (2 * j) 0) (b.getD (2 * j + 1) 0) z
          p.getD (2 * j) 0 = r.1 ∧ p.getD (2 * j + 1) 0 = r.2) ∧
        Completed t ∧ ControlKept s t ∧ ResultsKept s t ∧ PregKeptOutside s t pd.toNat 1 ∧
        ∀ k, byteOf t k = byteOf s k) ∧
    (∀ a0 a1 a2 b0 b1 b2 : Poly, readPoly s pa.toNat = .ok a0 → readPoly s (pa.toNat + 1) = .ok a1 →
      readPoly s (pa.toNat + 2) = .ok a2 → readPoly s pb.toNat = .ok b0 → readPoly s (pb.toNat + 1) = .ok b1 →
      readPoly s (pb.toNat + 2) = .ok b2 →
      ∃ t p, exec (.pvacc pd pa pb) s = .next t ∧ readPoly t pd.toNat = .ok p ∧
        (∀ j, j < 256 →
          (p.getD j 0).toInt =
            ((polyBaseMul a0 b0).getD j 0 + (polyBaseMul a1 b1).getD j 0 + (polyBaseMul a2 b2).getD j 0).toInt % 3329) ∧
        Completed t ∧ ControlKept s t ∧ ResultsKept s t ∧ PregKeptOutside s t pd.toNat 1 ∧
        ∀ k, byteOf t k = byteOf s k)

/-! ### Results: serialisation and sampling -/

/-- R292, R295, R297, R300, R290: the single forms of the packing commands write their encoding at ARG0 and no other
cell. Bit k of field j of an encoding is bit k of coefficient j, normalised (R291) and compressed (R294); on (−q, q)
Norm is mod q, and on [0, q) compression is rounding half up, mod 2^d. -/
def Obligations.PackingCommandsWriteAtArg0 : Prop :=
  (∀ (s : State) (pa : PReg) (a : Poly), readPoly s pa.toNat = .ok a →
    ∀ c ∈ [(Instr.tobytes false pa, enc12 a, 384), (.compress10 false pa, comp10 a, 320),
        (.compress4 false pa, comp4 a, 128), (.tomsg pa, toMsg a, 32)],
      s.arg0.toNat + c.2.2 ≤ 8192 →
      ∃ t, exec c.1 s = .next t ∧ readBytes t s.arg0.toNat c.2.2 = .ok c.2.1 ∧ Completed t ∧ ControlKept s t ∧
        ResultsKept s t ∧ (∀ k, readCell t.preg k = readCell s.preg k) ∧ BmemKeptOutside s t s.arg0.toNat c.2.2) ∧
  (∀ (a : Poly) (j : Nat), j < 256 →
    let u := norm (a.getD j 0)
    (∀ k, k < 12 → bitAt (enc12 a) (12 * j + k) = u.testBit k) ∧
    (∀ k, k < 10 → bitAt (comp10 a) (10 * j + k) = (compress10 u).testBit k) ∧
    (∀ k, k < 4 → bitAt (comp4 a) (4 * j + k) = (compress4 u).testBit k) ∧
    bitAt (toMsg a) j = (compress1 u).testBit 0) ∧
  (∀ c : Coef, -3329 < c.toInt → c.toInt < 3329 → (norm c : Int) = c.toInt % 3329) ∧
  ∀ x, x < 3329 → ∀ c ∈ [(10, compress10 x), (4, compress4 x), (1, compress1 x)],
    c.2 = roundCompress c.1 x

/-- R293, R296, R298, R299, R332, R290: the single forms of the unpacking commands and CBD2 read their bytes at ARG0 and
write P[pd] alone. Coefficient j comes from the 12-, 10-, 4- or 1-bit field j of the string; Cbd2's is the sum of bits 0
and 1 of nibble j less that of bits 2 and 3, in [−2, 2] (R331, R330). -/
def Obligations.UnpackingCommandsReadAtArg0 : Prop :=
  (∀ (s : State) (pd : PReg) (b : List Byte),
    ∀ c ∈ [(Instr.frombytes false pd, dec12 b, 384), (.decompress10 false pd, decomp10 b, 320),
        (.decompress4 false pd, decomp4 b, 128), (.frommsg pd, fromMsg b, 32), (.cbd2 false pd, cbd2 b, 128)],
      readBytes s s.arg0.toNat c.2.2 = .ok b →
      ∃ t, exec c.1 s = .next t ∧ readPoly t pd.toNat = .ok c.2.1 ∧ Completed t ∧ ControlKept s t ∧ ResultsKept s t ∧
        PregKeptOutside s t pd.toNat 1 ∧ ∀ k, byteOf t k = byteOf s k) ∧
  ∀ (b : List Byte) (j : Nat), j < 256 →
    (((dec12 b).getD j 0).toNat < 4096 ∧ ∀ k, k < 12 → ((dec12 b).getD j 0).getLsbD k = bitAt b (12 * j + k)) ∧
    (∀ y : BitVec 10, (∀ k, k < 10 → y.getLsbD k = bitAt b (10 * j + k)) →
      ((decomp10 b).getD j 0).toNat = (y.toNat * 3329 + 512) / 1024) ∧
    (∀ y : BitVec 4, (∀ k, k < 4 → y.getLsbD k = bitAt b (4 * j + k)) →
      ((decomp4 b).getD j 0).toNat = (y.toNat * 3329 + 8) / 16) ∧
    (fromMsg b).getD j 0 = (if bitAt b j then 1665 else 0) ∧
    (let bit (k : Nat) : Int := if bitAt b (4 * j + k) then 1 else 0
     ((cbd2 b).getD j 0).toInt = (bit 0 + bit 1) - (bit 2 + bit 3)) ∧
    -2 ≤ ((cbd2 b).getD j 0).toInt ∧ ((cbd2 b).getD j 0).toInt ≤ 2

/-- R333, R345: with HASH answering, GETNOISE's single form writes the noise of PRF(seed, nonce), and GENENTRY, once its
sampler has 256 values, writes them: 256 coefficients in [0, q). -/
def Obligations.SeedCommandsWriteTheirSample : Prop :=
  ∀ (s : State) (pd : PReg) (nonce : BitVec 8) (seed : List Byte) (blocks : Nat),
    readBytes s s.arg0.toNat 32 = .ok seed → s.hash = .answers blocks →
    (∃ t, exec (.getnoise false pd nonce) s = .next t ∧
      readPoly t pd.toNat = .ok (cbd2 (hashFns.shake256 (seed ++ [nonce]) 128)) ∧ Completed t ∧ ControlKept s t ∧
      ResultsKept s t ∧ PregKeptOutside s t pd.toNat 1 ∧ ∀ k, byteOf t k = byteOf s k) ∧
    (∀ p, sampleNtt hashFns blocks (seed ++ [s.arg1.extractLsb' 0 8, s.arg1.extractLsb' 8 8]) = some p →
      ∃ t, exec (.genentry pd) s = .next t ∧ readPoly t pd.toNat = .ok p ∧
        (∀ j, j < 256 → (p.getD j 0).toNat < 3329) ∧ Completed t ∧ ControlKept s t ∧
        ResultsKept s t ∧ PregKeptOutside s t pd.toNat 1 ∧ ∀ k, byteOf t k = byteOf s k)

/-- R346, R344: GENMATRIX writes entry (i, j) of GenMatrix(ρ, T) to P[pd + 3i + j], and no other cell. -/
def Obligations.GenmatrixWritesNineEntries : Prop :=
  ∀ (s : State) (pd : PReg) (t : Bool) (seed : List Byte) (blocks : Nat) (entry : Nat → Nat → Poly),
    pd.toNat ≤ 23 → readBytes s s.arg0.toNat 32 = .ok seed → s.hash = .answers blocks →
    (∀ i j, i < 3 → j < 3 →
      sampleNtt hashFns blocks
        (seed ++ if t then [BitVec.ofNat 8 i, BitVec.ofNat 8 j] else [BitVec.ofNat 8 j, BitVec.ofNat 8 i]) =
        some (entry i j)) →
    ∃ u, exec (.genmatrix pd t) s = .next u ∧
      (∀ i j, i < 3 → j < 3 → readPoly u (pd.toNat + 3 * i + j) = .ok (entry i j)) ∧
      Completed u ∧ ControlKept s u ∧ ResultsKept s u ∧ PregKeptOutside s u pd.toNat 9 ∧
      ∀ k, byteOf u k = byteOf s k

/-! ### Results: constant-time utilities -/

/-- R360: VERIFY leaves CTFLAG = 1 exactly when the strings differ, and changes nothing else. -/
def Obligations.VerifyTellsWhetherTheStringsDiffer : Prop :=
  ∀ (s : State) (a b : List Byte), readBytes s s.arg0.toNat s.arg2.toNat = .ok a →
    readBytes s s.arg1.toNat s.arg2.toNat = .ok b →
    exec .verify s = .next { s with ctflag := decide (a ≠ b), pend := none, done := true, errcode := .ok }

/-- R361: the condition of CSEL, the mask 0 − cond, and the select x XOR (m AND (x XOR y)), which is y when cond = 1 and x
when cond = 0. -/
def Obligations.MaskSelectsWithoutBranch : Prop :=
  (∀ s : State, condition .f1 s = s.ctflag ∧ condition .f0 s = !s.ctflag) ∧
  (∀ w : Nat, condMask w true = BitVec.allOnes w ∧ condMask w false = 0#w) ∧
  (∀ (w : Nat) (cond : Bool) (x y : BitVec w),
    maskSelect cond x y = x ^^^ (condMask w cond &&& (x ^^^ y)) ∧ maskSelect cond x y = if cond then y else x)

/-- R362: CMOVB copies the source string over the destination when cond = 1 and rewrites the destination when cond = 0, as
if the source were copied first; no other byte changes. -/
def Obligations.CmovbCopiesWhenTheConditionHolds : Prop :=
  ∀ (s : State) (csel : CSel) (d y : List Byte), readBytes s s.arg0.toNat s.arg2.toNat = .ok d →
    readBytes s s.arg1.toNat s.arg2.toNat = .ok y →
    ∃ t, exec (.cmovb csel) s = .next t ∧
      readBytes t s.arg0.toNat s.arg2.toNat = .ok (if condition csel s then y else d) ∧ Completed t ∧
      ControlKept s t ∧ ResultsKept s t ∧ (∀ k, readCell t.preg k = readCell s.preg k) ∧
      BmemKeptOutside s t s.arg0.toNat s.arg2.toNat

/-- R363, R364: CMOV16 selects between SA[15:0] and SB[15:0] into SR0; PCMOV's single form leaves P[pa] or P[pd] in
P[pd]. -/
def Obligations.Cmov16AndPcmovSelectByTheCondition : Prop :=
  ∀ (s : State) (csel : CSel),
    exec (.cmov16 csel) s =
      .next { s with
        sr0 := ((if condition csel s then s.sb else s.sa).extractLsb' 0 16).signExtend 32
        pend := none, done := true, errcode := .ok } ∧
    ∀ (pd pa : PReg) (d a : Poly), readPoly s pd.toNat = .ok d → readPoly s pa.toNat = .ok a →
      ∃ t, exec (.pcmov false pd pa csel) s = .next t ∧
        readPoly t pd.toNat = .ok (if condition csel s then a else d) ∧ Completed t ∧ ControlKept s t ∧
        ResultsKept s t ∧ PregKeptOutside s t pd.toNat 1 ∧ ∀ k, byteOf t k = byteOf s k

/-! ### Results: KEM -/

/-- R384, R381, R48: KEYGEN writes PK and SK = skc ‖ pk ‖ H(pk) ‖ z, the keys of PKE_KeyGen on (ρ, σ) = G(d ‖ 3), and
nothing else: the PK copy, H(pk) and z stand in SK at their offsets, and COINS keeps d ‖ z. -/
def Obligations.KeygenWritesPkAndSk : Prop :=
  ∀ (s : State) (coins : List Byte) (blocks : Nat) (A : Nat → Nat → Poly), readBytes s 0x1260 64 = .ok coins →
    s.hash = .answers blocks →
    let g := hashFns.sha3_512 (coins.take 32 ++ [3])
    IsMatrix blocks (g.take 32) false A →
    ∃ t pk skc, exec .keygen s = .next t ∧ pkeKeyGen hashFns blocks (coins.take 32) = some (pk, skc) ∧
      IsKeyPair A (g.take 32) (g.drop 32) pk skc ∧ readBytes t 0x0000 1184 = .ok pk ∧ readBytes t 0x04A0 1152 = .ok skc ∧
      readBytes t 0x0920 1184 = .ok pk ∧ readBytes t 0x0DC0 32 = .ok (hashFns.sha3_256 pk) ∧
      readBytes t 0x0DE0 32 = .ok (coins.drop 32) ∧ Completed t ∧ ControlKept s t ∧ ResultsKept s t ∧
      (∀ k, readCell t.preg k = readCell s.preg k) ∧ BmemKeptOutside s t 0x0000 0x0E00

/-- R385, R382: ENCAPS derives (K, r) = G(m ‖ H(pk)) before encrypting, writes the ciphertext of PKE_Enc(pk, m, r) to CT
and K to SS, and nothing else. -/
def Obligations.EncapsWritesCtAndSs : Prop :=
  ∀ (s : State) (pk m : List Byte) (blocks : Nat) (A : Nat → Nat → Poly), readBytes s 0x0000 1184 = .ok pk →
    readBytes s 0x1260 32 = .ok m → s.hash = .answers blocks → IsMatrix blocks (pk.drop 1152) true A →
    let g := hashFns.sha3_512 (m ++ hashFns.sha3_256 pk)
    ∃ t c, exec .encaps s = .next t ∧ pkeEnc hashFns blocks pk m (g.drop 32) = some c ∧
      IsCiphertext A pk m (g.drop 32) c ∧ readBytes t 0x0E00 1088 = .ok c ∧ readBytes t 0x1240 32 = .ok (g.take 32) ∧
      Completed t ∧ ControlKept s t ∧ ResultsKept s t ∧ (∀ k, readCell t.preg k = readCell s.preg k) ∧
      ∀ k, (k < 0x0E00 ∨ 0x1260 ≤ k) → byteOf t k = byteOf s k

/-- R386, R383, R382: DECAPS decrypts CT to m', re-encrypts it under G(m' ‖ h), and writes to SS the key K' when the
re-encryption equals the ciphertext and J(z, c) otherwise; it completes alike and changes nothing else, CTFLAG
included. -/
def Obligations.DecapsRejectsImplicitly : Prop :=
  ∀ (s : State) (sk c : List Byte) (blocks : Nat) (A : Nat → Nat → Poly), readBytes s 0x04A0 2400 = .ok sk →
    readBytes s 0x0E00 1088 = .ok c → s.hash = .answers blocks → IsMatrix blocks ((sk.drop 2304).take 32) true A →
    let pk := (sk.drop 1152).take 1184
    let m' := pkeDec (sk.take 1152) c
    let g := hashFns.sha3_512 (m' ++ (sk.drop 2336).take 32)
    IsDecryption (sk.take 1152) c m' ∧
    ∃ t c', exec .decaps s = .next t ∧ pkeEnc hashFns blocks pk m' (g.drop 32) = some c' ∧
      IsCiphertext A pk m' (g.drop 32) c' ∧
      readBytes t 0x1240 32 = .ok (if c' = c then g.take 32 else hashFns.shake256 (sk.drop 2368 ++ c) 32) ∧
      Completed t ∧ ControlKept s t ∧ ResultsKept s t ∧ (∀ k, readCell t.preg k = readCell s.preg k) ∧
      BmemKeptOutside s t 0x1240 32

/-! ### V forms -/

/-- R125: the V = 1 form of a register command is its V = 0 form on registers r, r+1 and r+2, in that order, each from
the state the one before left; GETNOISE's nonce goes up by one mod 256. -/
def Obligations.VFormIsThreeSingleForms : Prop :=
  ∀ (s : State) (pd pa pb : PReg) (nonce : BitVec 8) (csel : CSel),
    pd.toNat ≤ 29 → pa.toNat ≤ 29 → pb.toNat ≤ 29 →
    ∀ form ∈ [fun (v : Bool) (k : PReg) => Instr.ntt v (pd + k) (pa + k), fun v k => .intt v (pd + k) (pa + k),
        fun v k => .preduce v (pd + k) (pa + k), fun v k => .ptomont v (pd + k) (pa + k),
        fun v k => .padd v (pd + k) (pa + k) (pb + k), fun v k => .psub v (pd + k) (pa + k) (pb + k),
        fun v k => .pbasemul v (pd + k) (pa + k) (pb + k), fun v k => .pcmov v (pd + k) (pa + k) csel,
        fun v k => .getnoise v (pd + k) (nonce + k.setWidth 8)],
      exec (form true 0) s =
        (Result.andThen (Result.andThen (exec (form false 0) s) (exec (form false 1))) (exec (form false 2)))

/-- R125, R290: the V = 1 form of a byte command is its V = 0 form on registers r, r+1, r+2 at ARG0, ARG0 + S and
ARG0 + 2·S; ARG0 itself is unchanged. -/
def Obligations.StridedVFormIsThreeSingleForms : Prop :=
  ∀ (s : State) (r : PReg), r.toNat ≤ 29 →
    ∀ form ∈ [(384, fun (v : Bool) (k : PReg) => Instr.tobytes v (r + k)), (384, fun v k => .frombytes v (r + k)),
        (320, fun v k => .compress10 v (r + k)), (320, fun v k => .decompress10 v (r + k)),
        (128, fun v k => .compress4 v (r + k)), (128, fun v k => .decompress4 v (r + k)),
        (128, fun v k => .cbd2 v (r + k))],
      s.arg0.toNat + 3 * form.1 ≤ 8192 →
      exec (form.2 true 0) s =
        Result.andThen (Result.andThen (Result.andThen (exec (form.2 false 0) s)
          (fun s1 => exec (form.2 false 1) (advanceArg0 form.1 s1)))
          (fun s2 => exec (form.2 false 2) (advanceArg0 form.1 s2)))
          (fun t => .next (restoreArg0 s.arg0 t))

/-! ### What every command does, and when it stops -/

/-- R463's destination sets as a frame, for all 34 commands: no coefficient and no byte outside W changes, and no control
or operand CSR. -/
def Obligations.CommandChangesOnlyItsDestinationSet : Prop :=
  ∀ (i : Instr) (s t : State), exec i s = .next t →
    ControlKept s t ∧
    (∀ k, inDestRegs i k = false → readCell t.preg k = readCell s.preg k) ∧
    (∀ a, inDestRegions i s a = false → byteOf t a = byteOf s a)

/-- R40, R52: SR0 and SR1 are written only by the commands R40 names, CTFLAG only by VERIFY. -/
def Obligations.OnlyTheNamedCommandsWriteResults : Prop :=
  ∀ (i : Instr) (s t : State), exec i s = .next t →
    (t.sr0 ≠ s.sr0 → i ∈ [.montr, .barr, .fqmul, .bflyf, .bflyi, .basemul, .cmov16 .f1, .cmov16 .f0]) ∧
    (t.sr1 ≠ s.sr1 → i ∈ [.bflyf, .bflyi, .basemul]) ∧
    (t.ctflag ≠ s.ctflag → i = .verify)

/-- R206, R204: an accepted command whose sources are defined completes, when HASH answers and its samplers finish within
the delivered blocks. What HASH does in the turn is the model's input (log entry 3). -/
def Obligations.CheckedCommandCompletes : Prop :=
  ∀ (i : Instr) (s : State) (blocks : Nat), checkInstr i s = .ok → sourcesDefined i s = true →
    s.hash = .answers blocks → samplersFinish blocks i s = true →
    ∃ t, exec i s = .next t ∧ Completed t

/-- R51, U1: a command that reads an undefined cell stops at the read of one, V forms included; a V form whose earlier
element has written that cell does not read it undefined (O32 says what it does). That an undefined source stops the
command even while HASH is silent is the model's choice (log entry 17). -/
def Obligations.UndefinedSourceStopsTheCommand : Prop :=
  ∀ (i : Instr) (s : State), checkInstr i s = .ok → UndefinedCoeffSource i s ∨ UndefinedByteSource i s →
    ∃ f, exec i s = .fault f ∧ f.UndefinedIn s

/-- R100, R203, R342 (U2, U3): while HASH is silent, or a sampler has not 256 values, a command with its sources defined
stays pending and nothing changes. -/
def Obligations.WaitingCommandChangesNothing : Prop :=
  ∀ (i : Instr) (s : State), checkInstr i s = .ok → sourcesDefined i s = true →
    (s.hash = .silent → (∃ v pd n t, i ∈ [Instr.getnoise v pd n, .genentry pd, .genmatrix pd t, .keygen, .encaps, .decaps]) →
      exec i s = .next s) ∧
    (∀ blocks, s.hash = .answers blocks → samplersFinish blocks i s = false → exec i s = .next s)

/-- The invariant holds after reset (R53). -/
def Obligations.ResetMeetsTheInvariant : Prop := State.reset.Inv

/-- Every step keeps the invariant: canonical memories, sign-extended SR0 and SR1, LASTOP the OP of CMD, a pending command
checked, equal to CMD, with DONE = 0. -/
def Obligations.StepKeepsTheInvariant : Prop :=
  ∀ s t : State, s.Inv → step s = .next t → t.Inv

/-- R206, R51: in a state of a run the machine stops only at the read of an undefined cell, and never for want of a
meaning. -/
def Obligations.StepStopsOnlyAtUndefinedCells : Prop :=
  ∀ s : State, s.Inv → (∀ f, step s = .fault f → f.UndefinedIn s) ∧ ∀ r, step s ≠ .refused r

/-! ### The host bus -/

/-- R82, R83, R89: a misaligned or unmapped access is not performed. -/
def Obligations.MisalignedAndUnmappedAccessesAreRefused : Prop :=
  ∀ (s : State) (a : BitVec 16) (d : Word) (rest : List Event), s.rstN = true →
    (a.toNat % 4 ≠ 0 ∨ (0x0040 ≤ a.toNat ∧ a.toNat < 0x0100) ∨ (0x0200 ≤ a.toNat ∧ a.toNat < 0x2000) ∨
      (0x4000 ≤ a.toNat ∧ a.toNat < 0x8000) ∨ 0xC000 ≤ a.toNat) →
    (s.events = .read a :: rest → step s = .next { s with events := rest, resp := some ⟨some 0, true⟩ }) ∧
    (s.events = .write a d :: rest → step s = .next { s with events := rest, resp := some ⟨none, true⟩ })

/-- R88, R50: while BUSY = 1 the BMEM and PREG windows, and writes to the operand CSRs and CTFLAG, are refused. -/
def Obligations.BusyBlockLocksDataAndOperands : Prop :=
  ∀ (s : State) (a : BitVec 16) (d : Word) (rest : List Event), s.rstN = true → s.pend ≠ none → a.toNat % 4 = 0 →
    (((0x2000 ≤ a.toNat ∧ a.toNat < 0x4000) ∨ (0x8000 ≤ a.toNat ∧ a.toNat < 0xC000)) →
      s.events = .read a :: rest → step s = .next { s with events := rest, resp := some ⟨some 0, true⟩ }) ∧
    (((0x2000 ≤ a.toNat ∧ a.toNat < 0x4000) ∨ (0x8000 ≤ a.toNat ∧ a.toNat < 0xC000) ∨
      a ∈ [0x014, 0x018, 0x01C, 0x020, 0x024, 0x028, 0x034]) →
      s.events = .write a d :: rest → step s = .next { s with events := rest, resp := some ⟨none, true⟩ })

/-- R91: a host read changes nothing but the response. R32, R50: a read of CSR word k is answered with that CSR, busy or
not; R33 to R42: what each holds, in every state (STATUS is O49's). That the response stands in `resp` is the model's
(log entry 7). -/
def Obligations.HostReadHasNoSideEffect : Prop :=
  (∀ (s t : State) (a : BitVec 16) (rest : List Event), s.events = .read a :: rest → step s = .next t →
    t = { s with events := rest, resp := t.resp }) ∧
  (∀ (s : State) (k : Nat) (rest : List Event), k < 16 → s.rstN = true →
    s.events = .read (BitVec.ofNat 16 (4 * k)) :: rest →
    step s = .next { s with events := rest, resp := some ⟨some (csrRead k s), false⟩ }) ∧
  ∀ s : State,
    csrRead 0 s = 0x4D4C4B37 ∧ csrRead 1 s = 0x01020203 ∧ csrRead 2 s = (if s.ie then 2 else 0) ∧ csrRead 4 s = s.cmd ∧
    csrRead 5 s = s.arg0 ∧ csrRead 6 s = s.arg1 ∧ csrRead 7 s = s.arg2 ∧ csrRead 8 s = s.sa ∧ csrRead 9 s = s.sb ∧
    csrRead 10 s = s.sz ∧ csrRead 11 s = s.sr0 ∧ csrRead 12 s = s.sr1 ∧ csrRead 13 s = (if s.ctflag then 1 else 0) ∧
    csrRead 14 s = 0 ∧ csrRead 15 s = 0

/-- R84, R80: a BMEM word is four bytes, the lowest address in the lowest bits, for reading and for writing; a word with
an undefined byte stops the machine (U1). -/
def Obligations.BmemWindowMovesFourBytes : Prop :=
  ∀ (s : State) (w : Nat) (d : Word) (rest : List Event), w < 2048 → s.rstN = true → s.pend = none →
    (s.events = .write (BitVec.ofNat 16 (0x2000 + 4 * w)) d :: rest →
      ∃ t, step s = .next t ∧ t = { s with events := rest, resp := some ⟨none, false⟩, bmem := t.bmem } ∧
        (∀ b, b < 4 → byteOf t (4 * w + b) = some (d.extractLsb' (8 * b) 8)) ∧ BmemKeptOutside s t (4 * w) 4) ∧
    (s.events = .read (BitVec.ofNat 16 (0x2000 + 4 * w)) :: rest →
      (∀ b0 b1 b2 b3, byteOf s (4 * w) = some b0 → byteOf s (4 * w + 1) = some b1 → byteOf s (4 * w + 2) = some b2 →
        byteOf s (4 * w + 3) = some b3 →
        ∃ v : Word, step s = .next { s with events := rest, resp := some ⟨some v, false⟩ } ∧
          v.toNat = b0.toNat + 2 ^ 8 * b1.toNat + 2 ^ 16 * b2.toNat + 2 ^ 24 * b3.toNat) ∧
      ((∃ b, b < 4 ∧ byteOf s (4 * w + b) = none) → ∃ k, step s = .fault (.undefinedByte k) ∧ byteOf s k = none))

/-- R86: a PREG word is coefficients 2j and 2j+1 of Pn, the lower number in the lower half; reading a word with an
undefined coefficient stops the machine (R51, U1). -/
def Obligations.PregWindowMovesTwoCoefficients : Prop :=
  ∀ (s : State) (n j : Nat) (d : Word) (rest : List Event), n < 32 → j < 128 → s.rstN = true → s.pend = none →
    (s.events = .write (BitVec.ofNat 16 (0x8000 + 512 * n + 4 * j)) d :: rest →
      ∃ t, step s = .next t ∧ t = { s with events := rest, resp := some ⟨none, false⟩, preg := t.preg } ∧
        coeffOf t n (2 * j) = some (d.extractLsb' 0 16) ∧ coeffOf t n (2 * j + 1) = some (d.extractLsb' 16 16) ∧
        ∀ k, k ≠ 256 * n + 2 * j → k ≠ 256 * n + 2 * j + 1 → readCell t.preg k = readCell s.preg k) ∧
    (s.events = .read (BitVec.ofNat 16 (0x8000 + 512 * n + 4 * j)) :: rest →
      (∀ c0 c1, coeffOf s n (2 * j) = some c0 → coeffOf s n (2 * j + 1) = some c1 →
        ∃ v : Word, step s = .next { s with events := rest, resp := some ⟨some v, false⟩ } ∧
          v.toNat = c0.toNat + 2 ^ 16 * c1.toNat) ∧
      ((∃ b, b < 2 ∧ coeffOf s n (2 * j + b) = none) →
        ∃ k, step s = .fault (.undefinedCoeff n k) ∧ coeffOf s n k = none))

/-- R85: a ZROM word is two twiddles, served at all times; a write changes nothing and gets err = 1. -/
def Obligations.ZromWindowIsReadOnly : Prop :=
  ∀ (s : State) (w : Nat) (d : Word) (rest : List Event), w < 64 → s.rstN = true →
    (s.events = .read (BitVec.ofNat 16 (0x0100 + 4 * w)) :: rest →
      ∃ v : Word, step s = .next { s with events := rest, resp := some ⟨some v, false⟩ } ∧
        v.toNat = (zeta (2 * w)).toNat + 2 ^ 16 * (zeta (2 * w + 1)).toNat) ∧
    (s.events = .write (BitVec.ofNat 16 (0x0100 + 4 * w)) d :: rest →
      step s = .next { s with events := rest, resp := some ⟨none, true⟩ })

/-- R32 to R42, R461: the sixteen CSR words after reset, and IRQ low. -/
def Obligations.CsrsReadTheirResetValues : Prop :=
  (∀ k, k < 16 → csrRead k State.reset = if k = 0 then 0x4D4C4B37 else if k = 1 then 0x01020203 else 0) ∧
  irq State.reset = false ∧
  (∀ a n j, byteOf State.reset a = none ∧ coeffOf State.reset n j = none)

/-- R36: STATUS = BUSY + 2·DONE + 4·ERR + 8·OVR + 2^8·ERRCODE + 2^16·LASTOP. -/
def Obligations.StatusWordHasItsFields : Prop :=
  ∀ s : State, (csrRead 3 s).toNat =
    s.pend.isSome.toNat + 2 * s.done.toNat + 4 * s.err.toNat + 8 * s.ovr.toNat +
      2 ^ 8 * (match s.errcode with | .ok => 0 | .illegalCmd => 1 | .pregRange => 2 | .bmemRange => 3) +
      2 ^ 16 * s.lastop.toNat

/-- R38, R39, R41, R50: while BUSY = 0 the operand CSRs and CTFLAG bit 0 read back as written, and writing one changes
nothing else; writes to read-only and reserved words are ignored with an OKAY response at any time (R32, R33, R34, R42). -/
def Obligations.CsrWritesReadBackOrAreIgnored : Prop :=
  ∀ (s : State) (d : Word) (rest : List Event), s.rstN = true →
    (s.pend = none → ∀ c ∈ [((0x014 : BitVec 16), 5, { s with arg0 := d }), (0x018, 6, { s with arg1 := d }),
        (0x01C, 7, { s with arg2 := d }), (0x020, 8, { s with sa := d }), (0x024, 9, { s with sb := d }),
        (0x028, 10, { s with sz := d }), (0x034, 13, { s with ctflag := d.getLsbD 0 })],
      s.events = .write c.1 d :: rest →
        step s = .next { c.2.2 with events := rest, resp := some ⟨none, false⟩ } ∧
        csrRead c.2.1 c.2.2 = if c.2.1 = 13 then d &&& 1 else d) ∧
    (∀ a ∈ [(0x000 : BitVec 16), 0x004, 0x02C, 0x030, 0x038, 0x03C], s.events = .write a d :: rest →
      step s = .next { s with events := rest, resp := some ⟨none, false⟩ })

/-- R36, R426: a STATUS write clears DONE, ERR and OVR by ones in bits 1, 2 and 3, at any time, and does nothing else. -/
def Obligations.StatusWriteClearsByOnes : Prop :=
  ∀ (s : State) (d : Word) (rest : List Event), s.rstN = true → s.events = .write 0x00C d :: rest →
    step s = .next { s with
      events := rest, resp := some ⟨none, false⟩
      done := if d.getLsbD 1 then false else s.done
      err := if d.getLsbD 2 then false else s.err
      ovr := if d.getLsbD 3 then false else s.ovr }

/-- R430, R431, R35: IRQ = IE ∧ DONE in every state with RST_N high; a CTRL write with bit 0 = 0 only loads IE, so setting
IE while DONE = 1 raises IRQ at once. -/
def Obligations.InterruptIsIeAndDone : Prop :=
  ∀ (s : State) (d : Word) (rest : List Event), s.rstN = true →
    (irq s = true ↔ s.ie = true ∧ s.done = true) ∧
    (d.getLsbD 0 = false → s.events = .write 0x008 d :: rest →
      step s = .next { s with events := rest, resp := some ⟨none, false⟩, ie := d.getLsbD 1 })

/-! ### Reset -/

/-- R462, R461, R463, R35: a CTRL write with bit 0 = 1 resets every CSR, loads IE from bit 1, empties PEND and keeps BMEM
and PREG, but for the destination set of a running command, which becomes undefined (the model takes W undefined, log
entry 11). -/
def Obligations.SoftResetAbortsAndKeepsMemory : Prop :=
  ∀ (s : State) (d : Word) (rest : List Event), s.rstN = true → d.getLsbD 0 = true → s.events = .write 0x008 d :: rest →
    ∃ t, step s = .next t ∧
      t = { State.reset with
        ie := d.getLsbD 1, preg := t.preg, bmem := t.bmem, hash := s.hash, events := rest
        resp := some ⟨none, false⟩ } ∧
      (s.pend = none → t.preg = s.preg ∧ t.bmem = s.bmem) ∧
      (∀ w i, s.pend = some w → decode w = .ok i →
        (∀ k, readCell t.preg k = if inDestRegs i k then none else readCell s.preg k) ∧
        (∀ a, byteOf t a = if inDestRegions i s a then none else byteOf s a))

/-- R460, R53, R461: while RST_N is 0 no transaction is answered and IRQ is low; when it rises every CSR has its reset
value, PEND is empty and every cell is undefined. What a level that does not change leaves is the model's (log entry 6). -/
def Obligations.HardResetLeavesTheResetState : Prop :=
  ∀ (s : State) (rest : List Event),
    (s.events = .rstN true :: rest → s.rstN = false →
      step s = .next { State.reset with hash := s.hash, events := rest }) ∧
    (s.events = .rstN true :: rest → s.rstN = true → step s = .next { s with events := rest }) ∧
    (∀ t, s.events = .rstN false :: rest → step s = .next t → irq t = false ∧ t.pend = none) ∧
    (s.rstN = false → irq s = false ∧
      (∀ a, s.events = .read a :: rest → step s = .next { s with events := rest, resp := none }) ∧
      (∀ a d, s.events = .write a d :: rest → step s = .next { s with events := rest, resp := none }))

/-! ### Facts of the arithmetic, the codings, the sampler and the HASH port -/

/-- R242: every twiddle is the centred Montgomery form of 17^brv7(i). -/
def Obligations.TwiddlesArePowersOfSeventeen : Prop :=
  ∀ i, i < 128 →
    ((zeta i).toInt - 17 ^ brv7 i * 65536) % 3329 = 0 ∧ -1664 ≤ (zeta i).toInt ∧ (zeta i).toInt ≤ 1664

/-- R340, R343: the sampler's result is the first 256 candidates below q, d1 before d2 of each triplet, in stream order,
and there is none while fewer have come. R102, R342: once a number of blocks yields a polynomial, every larger number
yields the same one. -/
def Obligations.SamplerDoesNotDependOnBlockCount : Prop :=
  (∀ (H : Config.HashFns) (m : List Byte) (n : Nat),
    let accepted := (candidates ((List.range n).flatMap (H.shake128 m))).filter (· < 3329)
    sampleNtt H n m = if accepted.length < 256 then none else some ((accepted.take 256).map (BitVec.ofNat 16))) ∧
  ∀ (H : Config.HashFns) (m : List Byte) (n k : Nat) (p : Poly),
    sampleNtt H n m = some p → n ≤ k → sampleNtt H k m = some p

/-- R344: GenMatrix(ρ, 1) is the transpose of GenMatrix(ρ, 0), for every hash family. -/
def Obligations.TransposedMatrixIsTheTranspose : Prop :=
  ∀ (H : Config.HashFns) (n : Nat) (rho : List Byte) (a b : Vec3 (Vec3 Poly)),
    genMatrix H n rho false = some a → genMatrix H n rho true = some b →
      b = ⟨⟨a.v0.v0, a.v1.v0, a.v2.v0⟩, ⟨a.v0.v1, a.v1.v1, a.v2.v1⟩, ⟨a.v0.v2, a.v1.v2, a.v2.v2⟩⟩

/-- On coefficients in (−q, q), mod q. R247 item 1: the inverse transform undoes the forward one, up to the factor
R = 2^16. R243: residue pair i of the forward transform is the polynomial mod X² − 17^(2·brv7(i)+1). R247 item 2, R269:
transforming, reducing, multiplying pairwise and transforming back gives the product in Z_q[X]/(X^256 + 1). -/
def Obligations.InverseTransformUndoesForward : Prop :=
  ∀ a : Poly, a.length = 256 → (∀ c ∈ a, -3329 < c.toInt ∧ c.toInt < 3329) →
    (∀ j, j < 256 → (((intt (ntt a)).getD j 0).toInt - (a.getD j 0).toInt * 65536) % 3329 = 0) ∧
    (∀ i e, i < 128 → e < 2 →
      (((ntt a).getD (2 * i + e) 0).toInt -
        ((List.range 128).map fun j => (a.getD (2 * j + e) 0).toInt * 17 ^ ((2 * brv7 i + 1) * j)).sum) % 3329 = 0) ∧
    ∀ b : Poly, b.length = 256 → (∀ c ∈ b, -3329 < c.toInt ∧ c.toInt < 3329) → ∀ j, j < 256 →
      (((intt (polyBaseMul (polyReduce (ntt a)) (polyReduce (ntt b)))).getD j 0).toInt - ringProduct a b j) % 3329 = 0

/-- R301: Dec12 inverts Enc12 up to mod q on (−q, q); ToMsg inverts FromMsg; compression loses at most 2 and 104, both
attained, in centred form mod q; and the sizes of the encodings. -/
def Obligations.CodingsRoundTrip : Prop :=
  let loss (d : Nat) (compress : Nat → Nat) (x : Nat) : Int :=
    let e := ((decompress d (compress x)).toInt - x) % 3329
    min e (3329 - e)
  (∀ a : Poly, a.length = 256 → (∀ c ∈ a, -3329 < c.toInt ∧ c.toInt < 3329) →
    dec12 (enc12 a) = a.map fun c => BitVec.ofInt 16 (c.toInt % 3329)) ∧
  (∀ m : List Byte, m.length = 32 → toMsg (fromMsg m) = m) ∧
  ((∀ x, x < 3329 → loss 10 compress10 x ≤ 2) ∧ ∃ x, x < 3329 ∧ loss 10 compress10 x = 2) ∧
  ((∀ x, x < 3329 → loss 4 compress4 x ≤ 104) ∧ ∃ x, x < 3329 ∧ loss 4 compress4 x = 104) ∧
  ∀ a : Poly, (enc12 a).length = 384 ∧ (comp10 a).length = 320 ∧ (comp4 a).length = 128 ∧ (toMsg a).length = 32

/-- R103, R389: the function ids, message lengths and output lengths of a command's HASH requests are the listed ones, in
order, with its sources defined and its samplers finished; so they are the same in any two states (R472). How the
requests are shown is the model's (log entry 15). -/
def Obligations.HashTrafficShapeIsPublic : Prop :=
  (∀ (i : Instr) (s : State) (n : Nat), checkInstr i s = .ok → sourcesDefined i s = true →
    samplersFinish n i s = true → (hashRequests hashFns n i s).map HashReq.lengths = hashShape i) ∧
  ∀ (i : Instr) (s t : State) (n k : Nat), checkInstr i s = .ok → checkInstr i t = .ok →
    sourcesDefined i s = true → sourcesDefined i t = true → samplersFinish n i s = true → samplersFinish k i t = true →
    (hashRequests hashFns n i s).map HashReq.lengths = (hashRequests hashFns k i t).map HashReq.lengths
end

