-- ==== Sys2Proof/Laws/Cells.lean ====
section
/-! SUPPORT. The laws of the cell lists behind BMEM and PREG: what a read finds after a write or an erase, that every
operation keeps the canonical form, and that the canonical form makes equal memories equal lists. -/

namespace Sys2Proof.Machine

variable {α : Type}

@[simp] theorem cellsFrom_length (a : Nat) (vs : List α) : (cellsFrom a vs).length = vs.length := by
  induction vs generalizing a with
  | nil => rfl
  | cons v vs ih => simp [cellsFrom, ih]

theorem readCell_append (m m' : List (Nat × α)) (k : Nat) :
    readCell (m ++ m') k = (readCell m k).or (readCell m' k) := by
  induction m with
  | nil => rfl
  | cons c m ih =>
    obtain ⟨j, v⟩ := c
    by_cases h : j = k <;> simp [readCell, h, ih]

theorem readCell_filter (m : List (Nat × α)) (p : Nat → Bool) (k : Nat) :
    readCell (m.filter fun c => p c.1) k = if p k then readCell m k else none := by
  induction m with
  | nil => simp [readCell]
  | cons c m ih =>
    obtain ⟨j, v⟩ := c
    by_cases hp : p j <;> by_cases h : j = k
    · subst h; simp [readCell, hp]
    · simp [readCell, hp, h, ih]
    · subst h; simp [hp, ih]
    · simp [readCell, hp, h, ih]

theorem readCell_cellsFrom (a : Nat) (vs : List α) (k : Nat) :
    readCell (cellsFrom a vs) k = if a ≤ k then vs[k - a]? else none := by
  induction vs generalizing a with
  | nil => simp [cellsFrom, readCell]
  | cons v vs ih =>
    simp only [cellsFrom, readCell, ih]
    by_cases h : a = k
    · simp [h]
    · by_cases hk : a ≤ k
      · have hs : k - a = (k - (a + 1)) + 1 := by omega
        simp [h, hk, show a + 1 ≤ k by omega, hs]
      · simp [h, hk, show ¬ a + 1 ≤ k by omega]

/-- What a read finds after a write: the written values in the written range, the old cells outside it. -/
theorem readCell_writeCells (m : List (Nat × α)) (a : Nat) (vs : List α) (k : Nat) :
    readCell (writeCells m a vs) k = if a ≤ k ∧ k < a + vs.length then vs[k - a]? else readCell m k := by
  simp only [writeCells, readCell_append, readCell_cellsFrom, readCell_filter m (fun j => decide (j < a)),
    readCell_filter m (fun j => decide (a + vs.length ≤ j)), decide_eq_true_eq]
  by_cases h1 : k < a
  · have h2 : ¬ a ≤ k := by omega
    have h3 : ¬ a + vs.length ≤ k := by omega
    simp [h1, h2, h3]
  · have h2 : a ≤ k := by omega
    by_cases h3 : a + vs.length ≤ k
    · have h4 : ¬ k < a + vs.length := by omega
      have h5 : vs[k - a]? = none := List.getElem?_eq_none (by omega)
      simp [h1, h2, h3, h4, h5]
    · have h4 : k < a + vs.length := by omega
      simp [h1, h2, h3, h4]

theorem readCell_writeCells_outside (m : List (Nat × α)) (a : Nat) (vs : List α) (k : Nat)
    (h : k < a ∨ a + vs.length ≤ k) : readCell (writeCells m a vs) k = readCell m k := by
  rw [readCell_writeCells, if_neg (by omega)]

/-- What a read finds after an erase: nothing in the erased range, the old cells outside it. -/
theorem readCell_eraseCells (m : List (Nat × α)) (a len k : Nat) :
    readCell (eraseCells m a len) k = if a ≤ k ∧ k < a + len then none else readCell m k := by
  simp only [eraseCells, readCell_filter m (fun j => decide (j < a) || decide (a + len ≤ j)), Bool.or_eq_true,
    decide_eq_true_eq]
  by_cases h : k < a ∨ a + len ≤ k
  · rw [if_pos h, if_neg (by omega)]
  · rw [if_neg h, if_pos (by omega)]

theorem cellsWf_filter {b : Nat} {m : List (Nat × α)} (h : CellsWf b m) (p : Nat × α → Bool) :
    CellsWf b (m.filter p) :=
  ⟨h.1.filter p, fun c hc => h.2 c (List.mem_filter.1 hc).1⟩

theorem cellsFrom_mem {a : Nat} {vs : List α} {c : Nat × α} (h : c ∈ cellsFrom a vs) :
    a ≤ c.1 ∧ c.1 < a + vs.length := by
  induction vs generalizing a with
  | nil => simp [cellsFrom] at h
  | cons v vs ih =>
    rcases List.mem_cons.1 h with h | h
    · subst h; simp
    · have := ih h; simp only [List.length_cons]; omega

theorem cellsFrom_rising (a : Nat) (vs : List α) : (cellsFrom a vs).Pairwise fun c d => c.1 < d.1 := by
  induction vs generalizing a with
  | nil => exact List.Pairwise.nil
  | cons v vs ih =>
    exact List.Pairwise.cons (fun d hd => by have := cellsFrom_mem hd; simp only; omega) (ih _)

/-- A write inside the bound keeps the canonical form. -/
theorem cellsWf_writeCells {b : Nat} {m : List (Nat × α)} (h : CellsWf b m) {a : Nat} {vs : List α}
    (hb : a + vs.length ≤ b) : CellsWf b (writeCells m a vs) := by
  constructor
  · refine List.pairwise_append.2 ⟨h.1.filter _, List.pairwise_append.2
      ⟨cellsFrom_rising a vs, h.1.filter _, ?_⟩, ?_⟩
    · intro c hc d hd
      have h1 := cellsFrom_mem hc
      have h2 := (List.mem_filter.1 hd).2
      simp only [decide_eq_true_eq] at h2
      omega
    · intro c hc d hd
      have h1 := (List.mem_filter.1 hc).2
      simp only [decide_eq_true_eq] at h1
      rcases List.mem_append.1 hd with hd | hd
      · have := cellsFrom_mem hd; omega
      · have h2 := (List.mem_filter.1 hd).2
        simp only [decide_eq_true_eq] at h2
        omega
  · intro c hc
    rcases List.mem_append.1 hc with hc | hc
    · exact h.2 c (List.mem_filter.1 hc).1
    · rcases List.mem_append.1 hc with hc | hc
      · have := cellsFrom_mem hc; omega
      · exact h.2 c (List.mem_filter.1 hc).1

/-- An erase keeps the canonical form. -/
theorem cellsWf_eraseCells {b : Nat} {m : List (Nat × α)} (h : CellsWf b m) (a len : Nat) :
    CellsWf b (eraseCells m a len) := cellsWf_filter h _

theorem cellsWf_nil (b : Nat) : CellsWf b ([] : List (Nat × α)) := ⟨List.Pairwise.nil, by simp⟩

theorem readCell_eq_some_mem {m : List (Nat × α)} {k : Nat} {v : α} (h : readCell m k = some v) : (k, v) ∈ m := by
  induction m with
  | nil => simp [readCell] at h
  | cons c m ih =>
    obtain ⟨j, w⟩ := c
    by_cases hj : j = k
    · simp [readCell, hj] at h; simp [hj, h]
    · simp [readCell, hj] at h; exact List.mem_cons_of_mem _ (ih h)

theorem readCell_eq_none_of_lt {m : List (Nat × α)} {k : Nat} (h : ∀ c ∈ m, k < c.1) : readCell m k = none := by
  cases hr : readCell m k with
  | none => rfl
  | some v => exact absurd (h _ (readCell_eq_some_mem hr)) (by simp)

/-- No cell of a memory in canonical form lies at or past its bound. -/
theorem readCell_eq_none_of_bound {b : Nat} {m : List (Nat × α)} (h : CellsWf b m) {k : Nat} (hk : b ≤ k) :
    readCell m k = none := by
  cases hr : readCell m k with
  | none => rfl
  | some v => exact absurd (h.2 _ (readCell_eq_some_mem hr)) (by simp; omega)

/-- Memories in canonical form that read alike are the same list. -/
theorem cells_ext {b b' : Nat} {m m' : List (Nat × α)} (h : CellsWf b m) (h' : CellsWf b' m')
    (hr : ∀ k, readCell m k = readCell m' k) : m = m' := by
  induction m generalizing m' with
  | nil =>
    cases m' with
    | nil => rfl
    | cons c m' => have := hr c.1; simp [readCell] at this
  | cons c m ih =>
    obtain ⟨j, v⟩ := c
    cases m' with
    | nil => have := hr j; simp [readCell] at this
    | cons c' m' =>
      obtain ⟨j', v'⟩ := c'
      have hm := List.pairwise_cons.1 h.1
      have hm' := List.pairwise_cons.1 h'.1
      have hj : j = j' := by
        rcases Nat.lt_trichotomy j j' with hlt | heq | hgt
        · have h1 := hr j
          rw [readCell_eq_none_of_lt (m := (j', v') :: m') (by
            intro c hc
            rcases List.mem_cons.1 hc with rfl | hc
            · exact hlt
            · exact Nat.lt_trans hlt (hm'.1 c hc))] at h1
          simp [readCell] at h1
        · exact heq
        · have h1 := hr j'
          rw [readCell_eq_none_of_lt (m := (j, v) :: m) (by
            intro c hc
            rcases List.mem_cons.1 hc with rfl | hc
            · exact hgt
            · exact Nat.lt_trans hgt (hm.1 c hc))] at h1
          simp [readCell] at h1
      subst hj
      have hv : v = v' := by have := hr j; simpa [readCell] using this
      subst hv
      congr 1
      refine ih ⟨hm.2, fun c hc => h.2 c (List.mem_cons_of_mem _ hc)⟩
        ⟨hm'.2, fun c hc => h'.2 c (List.mem_cons_of_mem _ hc)⟩ fun k => ?_
      by_cases hk : j = k
      · subst hk
        rw [readCell_eq_none_of_lt hm.1, readCell_eq_none_of_lt hm'.1]
      · have := hr k; simpa [readCell, hk] using this

/-- A range read succeeds with exactly the cells it covers. -/
theorem readCells_ok_iff (m : List (Nat × α)) (a len : Nat) (vs : List α) :
    readCells m a len = .ok vs ↔ vs.length = len ∧ ∀ j, j < len → readCell m (a + j) = vs[j]? := by
  induction len generalizing a vs with
  | zero =>
    constructor
    · intro h; cases h; simp
    · rintro ⟨h, -⟩; rw [List.length_eq_zero_iff.1 h]; rfl
  | succ len ih =>
    simp only [readCells]
    cases hc : readCell m a with
    | none =>
      simp only [reduceCtorEq, false_iff]
      rintro ⟨hl, h⟩
      have := h 0 (by omega)
      simp only [Nat.add_zero, hc] at this
      exact absurd (List.getElem?_eq_none_iff.1 this.symm) (by omega)
    | some v =>
      constructor
      · intro h
        cases hr : readCells m (a + 1) len with
        | error e => simp [hr, Except.map] at h
        | ok ws =>
          simp only [hr, Except.map, Except.ok.injEq] at h
          subst h
          obtain ⟨hl, hws⟩ := (ih (a + 1) ws).1 hr
          refine ⟨by simp [hl], fun j hj => ?_⟩
          cases j with
          | zero => simpa using hc
          | succ j =>
            have := hws j (by omega)
            simpa [Nat.add_assoc, Nat.add_comm 1 j] using this
      · rintro ⟨hl, h⟩
        cases vs with
        | nil => simp at hl
        | cons w ws =>
          have h0 := h 0 (by omega)
          simp only [Nat.add_zero, hc, List.getElem?_cons_zero, Option.some.injEq] at h0
          subst h0
          have hws : readCells m (a + 1) len = .ok ws := (ih (a + 1) ws).2 ⟨by simpa using hl, fun j hj => by
            have := h (j + 1) (by omega)
            simpa [Nat.add_assoc, Nat.add_comm 1 j] using this⟩
          simp [hws, Except.map]

/-- A range read fails at an undefined cell of the range. -/
theorem readCells_error {m : List (Nat × α)} {a len k : Nat} (h : readCells m a len = .error k) :
    a ≤ k ∧ k < a + len ∧ readCell m k = none := by
  induction len generalizing a with
  | zero => cases h
  | succ len ih =>
    simp only [readCells] at h
    cases hc : readCell m a with
    | none => simp only [hc, Except.error.injEq] at h; subst h; exact ⟨by omega, by omega, hc⟩
    | some v =>
      cases hr : readCells m (a + 1) len with
      | ok ws => simp [hc, hr, Except.map] at h
      | error e =>
        simp only [hc, hr, Except.map, Except.error.injEq] at h
        subst h
        have := ih hr
        exact ⟨by omega, by omega, this.2.2⟩

/-- A range whose cells are all defined reads. -/
theorem readCells_of_defined {m : List (Nat × α)} {a len : Nat} (h : ∀ j, j < len → (readCell m (a + j)).isSome) :
    ∃ vs, readCells m a len = .ok vs := by
  cases hr : readCells m a len with
  | ok vs => exact ⟨vs, rfl⟩
  | error k =>
    have hk := readCells_error hr
    have := h (k - a) (by omega)
    rw [show a + (k - a) = k by omega, hk.2.2] at this
    simp at this

theorem readCells_length {m : List (Nat × α)} {a len : Nat} {vs : List α} (h : readCells m a len = .ok vs) :
    vs.length = len := ((readCells_ok_iff m a len vs).1 h).1

/-- A range read back after it was written gives what was written. -/
theorem readCells_writeCells_self (m : List (Nat × α)) (a : Nat) (vs : List α) :
    readCells (writeCells m a vs) a vs.length = .ok vs := by
  refine (readCells_ok_iff _ _ _ _).2 ⟨rfl, fun j hj => ?_⟩
  rw [readCell_writeCells, if_pos (by omega), Nat.add_sub_cancel_left]

/-- A range read away from a write, or after no cell of it changed, is as before. -/
theorem readCells_congr {m m' : List (Nat × α)} {a len : Nat}
    (h : ∀ j, j < len → readCell m (a + j) = readCell m' (a + j)) : readCells m a len = readCells m' a len := by
  induction len generalizing a with
  | zero => rfl
  | succ len ih =>
    have h0 := h 0 (by omega)
    simp only [Nat.add_zero] at h0
    have hs : readCells m (a + 1) len = readCells m' (a + 1) len := ih fun j hj => by
      have := h (j + 1) (by omega)
      simpa [Nat.add_assoc, Nat.add_comm 1 j] using this
    simp only [readCells, h0, hs]

/-- A defined cell stays defined when more is written. -/
theorem isSome_writeCells {m : List (Nat × α)} {k : Nat} (a : Nat) (vs : List α) (h : (readCell m k).isSome) :
    (readCell (writeCells m a vs) k).isSome := by
  rw [readCell_writeCells]
  split
  · rename_i hk
    rw [List.getElem?_eq_getElem (by omega)]
    rfl
  · exact h

end Sys2Proof.Machine
end

