-- ==== Sys2Proof/Laws/Lengths.lean ====
section
/-! SUPPORT. The lengths of the values the commands compute: every polynomial has 256 coefficients, every encoding its
size of spec/44_serial.md R301 item 4, every KEM value its size of spec/00_scope.md R8. -/

namespace Sys2Proof.Machine

@[simp] theorem butterflyStep_length (f : Coef → Coef → Coef → Coef × Coef) (r : Poly) (b : Butterfly) :
    (butterflyStep f r b).length = r.length := by
  simp [butterflyStep]

theorem foldl_butterflyStep_length (f : Coef → Coef → Coef → Coef × Coef) (bs : List Butterfly) (r : Poly) :
    (bs.foldl (butterflyStep f) r).length = r.length := by
  induction bs generalizing r with
  | nil => rfl
  | cons b bs ih => simp [ih]

@[simp] theorem ntt_length (a : Poly) : (ntt a).length = a.length := foldl_butterflyStep_length ..

@[simp] theorem intt_length (a : Poly) : (intt a).length = a.length := by
  simp [intt, foldl_butterflyStep_length]

@[simp] theorem polyAdd_length (a b : Poly) : (polyAdd a b).length = min a.length b.length := by simp [polyAdd]

@[simp] theorem polySub_length (a b : Poly) : (polySub a b).length = min a.length b.length := by simp [polySub]

@[simp] theorem polyReduce_length (a : Poly) : (polyReduce a).length = a.length := by simp [polyReduce]

@[simp] theorem polyToMont_length (a : Poly) : (polyToMont a).length = a.length := by simp [polyToMont]

@[simp] theorem polyBaseMul_length (a b : Poly) : (polyBaseMul a b).length = 256 := by
  simp [polyBaseMul, List.length_flatMap, baseMulQuad]

@[simp] theorem polyVecAcc_length (a b : Vec3 Poly) : (polyVecAcc a b).length = 256 := by simp [polyVecAcc]

@[simp] theorem pntt_length (a : Poly) : (pntt a).length = a.length := by simp [pntt]

@[simp] theorem enc12_length (a : Poly) : (enc12 a).length = 384 := by simp [enc12, List.length_flatMap]

@[simp] theorem dec12_length (b : List Byte) : (dec12 b).length = 256 := by simp [dec12, List.length_flatMap]

@[simp] theorem comp10_length (a : Poly) : (comp10 a).length = 320 := by simp [comp10, List.length_flatMap]

@[simp] theorem decomp10_length (b : List Byte) : (decomp10 b).length = 256 := by
  simp [decomp10, List.length_flatMap]

@[simp] theorem comp4_length (a : Poly) : (comp4 a).length = 128 := by simp [comp4]

@[simp] theorem decomp4_length (b : List Byte) : (decomp4 b).length = 256 := by simp [decomp4, List.length_flatMap]

@[simp] theorem fromMsg_length (m : List Byte) : (fromMsg m).length = 256 := by simp [fromMsg, List.length_flatMap]

@[simp] theorem toMsg_length (a : Poly) : (toMsg a).length = 32 := by simp [toMsg]

@[simp] theorem cbd2_length (b : List Byte) : (cbd2 b).length = 256 := by simp [cbd2, List.length_flatMap]

@[simp] theorem noise_length (H : Config.HashFns) (seed : List Byte) (nonce : Nat) :
    (noise H seed nonce).length = 256 := cbd2_length _

theorem acceptCand_length_le {a : Poly} (h : a.length ≤ 256) (d : Nat) : (acceptCand a d).length ≤ 256 := by
  unfold acceptCand
  split
  · simp only [List.length_append, List.length_cons, List.length_nil]; omega
  · exact h

/-- The rejection sampler gives exactly 256 coefficients (R343). -/
theorem sampleLoop_length {a p : Poly} {bs : List Byte} (h : a.length ≤ 256) (hs : sampleLoop a bs = some p) :
    p.length = 256 := by
  induction a, bs using sampleLoop.induct with
  | case1 a s0 s1 s2 rest hlt ih =>
    rw [sampleLoop, if_pos hlt] at hs
    exact ih (acceptCand_length_le (acceptCand_length_le h _) _) hs
  | case2 a s0 s1 s2 rest hlt =>
    rw [sampleLoop, if_neg hlt, Option.some.injEq] at hs
    subst hs; omega
  | case3 bs a hlt hbs =>
    simp only [sampleLoop, if_pos hlt, reduceCtorEq] at hs
  | case4 bs a hlt hbs =>
    simp only [sampleLoop, if_neg hlt, Option.some.injEq] at hs
    subst hs; omega

theorem sampleNtt_length {H : Config.HashFns} {blocks : Nat} {m : List Byte} {p : Poly}
    (h : sampleNtt H blocks m = some p) : p.length = 256 := sampleLoop_length (by simp) h

theorem vec3Option_eq_some {α : Type} {f : Nat → Option α} {a : Vec3 α} (h : vec3Option f = some a) :
    f 0 = some a.v0 ∧ f 1 = some a.v1 ∧ f 2 = some a.v2 := by
  simp only [vec3Option, Option.bind_eq_bind, Option.bind_eq_some_iff, Option.pure_def, Option.some.injEq] at h
  obtain ⟨x0, h0, x1, h1, x2, h2, rfl⟩ := h
  exact ⟨h0, h1, h2⟩

/-- The nine entries of a sampled matrix (R344). -/
theorem genMatrix_eq_some {H : Config.HashFns} {blocks : Nat} {rho : List Byte} {t : Bool} {a : Vec3 (Vec3 Poly)}
    (h : genMatrix H blocks rho t = some a) :
    (sampleNtt H blocks (entryMessage rho t 0 0) = some a.v0.v0 ∧
      sampleNtt H blocks (entryMessage rho t 0 1) = some a.v0.v1 ∧
      sampleNtt H blocks (entryMessage rho t 0 2) = some a.v0.v2) ∧
    (sampleNtt H blocks (entryMessage rho t 1 0) = some a.v1.v0 ∧
      sampleNtt H blocks (entryMessage rho t 1 1) = some a.v1.v1 ∧
      sampleNtt H blocks (entryMessage rho t 1 2) = some a.v1.v2) ∧
    (sampleNtt H blocks (entryMessage rho t 2 0) = some a.v2.v0 ∧
      sampleNtt H blocks (entryMessage rho t 2 1) = some a.v2.v1 ∧
      sampleNtt H blocks (entryMessage rho t 2 2) = some a.v2.v2) := by
  obtain ⟨h0, h1, h2⟩ := vec3Option_eq_some h
  exact ⟨vec3Option_eq_some h0, vec3Option_eq_some h1, vec3Option_eq_some h2⟩

@[simp] theorem slice_length (s : List Byte) (i j : Nat) : (slice s i j).length = min (j - i) (s.length - i) := by
  simp [slice]

@[simp] theorem hashH_length (H : Config.HashFns) (m : List Byte) : (hashH H m).length = 32 := H.sha3_256_length m

@[simp] theorem hashG_fst_length (H : Config.HashFns) (m : List Byte) : (hashG H m).1.length = 32 := by
  simp [hashG, H.sha3_512_length]

@[simp] theorem hashG_snd_length (H : Config.HashFns) (m : List Byte) : (hashG H m).2.length = 32 := by
  simp [hashG, H.sha3_512_length]

@[simp] theorem hashJ_length (H : Config.HashFns) (z c : List Byte) : (hashJ H z c).length = 32 :=
  H.shake256_length _ _

/-- The sizes of a key pair of the PKE core: 1184 and 1152 bytes (R8, R381). -/
theorem pkeKeyGen_length {H : Config.HashFns} {blocks : Nat} {d pk skc : List Byte}
    (h : pkeKeyGen H blocks d = some (pk, skc)) : pk.length = 1184 ∧ skc.length = 1152 := by
  simp only [pkeKeyGen, Option.bind_eq_bind, Option.bind_eq_some_iff, Option.pure_def, Option.some.injEq,
    Prod.mk.injEq] at h
  obtain ⟨a, -, rfl, rfl⟩ := h
  simp [Vec3.concat, Vec3.mapAll, keygenSeeds]

/-- The size of a ciphertext: 1088 bytes (R8, R382). -/
theorem pkeEnc_length {H : Config.HashFns} {blocks : Nat} {pk m coins c : List Byte}
    (h : pkeEnc H blocks pk m coins = some c) : c.length = 1088 := by
  simp only [pkeEnc, Option.bind_eq_bind, Option.bind_eq_some_iff, Option.pure_def, Option.some.injEq] at h
  obtain ⟨a, -, rfl⟩ := h
  simp [Vec3.concat, Vec3.mapAll]

@[simp] theorem pkeDec_length (skc c : List Byte) : (pkeDec skc c).length = 32 := toMsg_length _

/-- The sizes of what KEYGEN writes: 1184 and 2400 bytes (R8, R384), from 64 bytes of coins. -/
theorem kemKeygen_length {H : Config.HashFns} {blocks : Nat} {coins pk sk : List Byte} (hc : coins.length = 64)
    (h : kemKeygen H blocks coins = some (pk, sk)) : pk.length = 1184 ∧ sk.length = 2400 := by
  simp only [kemKeygen, Option.bind_eq_bind, Option.bind_eq_some_iff, Option.pure_def, Option.some.injEq,
    Prod.mk.injEq, Prod.exists] at h
  obtain ⟨pk', skc, hk, rfl, rfl⟩ := h
  have := pkeKeyGen_length hk
  simp [this.1, this.2, hc]

/-- The sizes of what ENCAPS writes: 1088 and 32 bytes (R8, R385). -/
theorem kemEncaps_length {H : Config.HashFns} {blocks : Nat} {pk m c k : List Byte}
    (h : kemEncaps H blocks pk m = some (c, k)) : c.length = 1088 ∧ k.length = 32 := by
  simp only [kemEncaps, Option.bind_eq_bind, Option.bind_eq_some_iff, Option.pure_def, Option.some.injEq,
    Prod.mk.injEq] at h
  obtain ⟨c', hc, rfl, rfl⟩ := h
  exact ⟨pkeEnc_length hc, hashG_fst_length _ _⟩

/-- The size of what DECAPS writes: 32 bytes (R8, R386). -/
theorem kemDecaps_length {H : Config.HashFns} {blocks : Nat} {sk c k : List Byte}
    (h : kemDecaps H blocks sk c = some k) : k.length = 32 := by
  simp only [kemDecaps, Option.bind_eq_bind, Option.bind_eq_some_iff, Option.pure_def, Option.some.injEq] at h
  obtain ⟨c', -, rfl⟩ := h
  simp

end Sys2Proof.Machine
end

