-- ==== Sys2Proof/Laws/State.lean ====
section
/-! SUPPORT. One lemma per field for each of the machine's state updates: what the update leaves in that field. All hold by
rfl; simp uses them so that no proof unfolds an update. -/

namespace Sys2Proof.Machine

/-! complete -/

@[simp] theorem complete_ie (s : State) : (complete s).ie = s.ie := rfl
@[simp] theorem complete_done (s : State) : (complete s).done = true := rfl
@[simp] theorem complete_err (s : State) : (complete s).err = s.err := rfl
@[simp] theorem complete_ovr (s : State) : (complete s).ovr = s.ovr := rfl
@[simp] theorem complete_errcode (s : State) : (complete s).errcode = .ok := rfl
@[simp] theorem complete_lastop (s : State) : (complete s).lastop = s.lastop := rfl
@[simp] theorem complete_cmd (s : State) : (complete s).cmd = s.cmd := rfl
@[simp] theorem complete_arg0 (s : State) : (complete s).arg0 = s.arg0 := rfl
@[simp] theorem complete_arg1 (s : State) : (complete s).arg1 = s.arg1 := rfl
@[simp] theorem complete_arg2 (s : State) : (complete s).arg2 = s.arg2 := rfl
@[simp] theorem complete_sa (s : State) : (complete s).sa = s.sa := rfl
@[simp] theorem complete_sb (s : State) : (complete s).sb = s.sb := rfl
@[simp] theorem complete_sz (s : State) : (complete s).sz = s.sz := rfl
@[simp] theorem complete_sr0 (s : State) : (complete s).sr0 = s.sr0 := rfl
@[simp] theorem complete_sr1 (s : State) : (complete s).sr1 = s.sr1 := rfl
@[simp] theorem complete_ctflag (s : State) : (complete s).ctflag = s.ctflag := rfl
@[simp] theorem complete_pend (s : State) : (complete s).pend = none := rfl
@[simp] theorem complete_preg (s : State) : (complete s).preg = s.preg := rfl
@[simp] theorem complete_bmem (s : State) : (complete s).bmem = s.bmem := rfl
@[simp] theorem complete_rstN (s : State) : (complete s).rstN = s.rstN := rfl
@[simp] theorem complete_hash (s : State) : (complete s).hash = s.hash := rfl
@[simp] theorem complete_events (s : State) : (complete s).events = s.events := rfl
@[simp] theorem complete_resp (s : State) : (complete s).resp = s.resp := rfl

/-! accept -/

@[simp] theorem accept_ie (w : Word) (s : State) : (accept w s).ie = s.ie := rfl
@[simp] theorem accept_done (w : Word) (s : State) : (accept w s).done = false := rfl
@[simp] theorem accept_err (w : Word) (s : State) : (accept w s).err = s.err := rfl
@[simp] theorem accept_ovr (w : Word) (s : State) : (accept w s).ovr = s.ovr := rfl
@[simp] theorem accept_errcode (w : Word) (s : State) : (accept w s).errcode = s.errcode := rfl
@[simp] theorem accept_lastop (w : Word) (s : State) : (accept w s).lastop = s.lastop := rfl
@[simp] theorem accept_cmd (w : Word) (s : State) : (accept w s).cmd = s.cmd := rfl
@[simp] theorem accept_arg0 (w : Word) (s : State) : (accept w s).arg0 = s.arg0 := rfl
@[simp] theorem accept_arg1 (w : Word) (s : State) : (accept w s).arg1 = s.arg1 := rfl
@[simp] theorem accept_arg2 (w : Word) (s : State) : (accept w s).arg2 = s.arg2 := rfl
@[simp] theorem accept_sa (w : Word) (s : State) : (accept w s).sa = s.sa := rfl
@[simp] theorem accept_sb (w : Word) (s : State) : (accept w s).sb = s.sb := rfl
@[simp] theorem accept_sz (w : Word) (s : State) : (accept w s).sz = s.sz := rfl
@[simp] theorem accept_sr0 (w : Word) (s : State) : (accept w s).sr0 = s.sr0 := rfl
@[simp] theorem accept_sr1 (w : Word) (s : State) : (accept w s).sr1 = s.sr1 := rfl
@[simp] theorem accept_ctflag (w : Word) (s : State) : (accept w s).ctflag = s.ctflag := rfl
@[simp] theorem accept_pend (w : Word) (s : State) : (accept w s).pend = some w := rfl
@[simp] theorem accept_preg (w : Word) (s : State) : (accept w s).preg = s.preg := rfl
@[simp] theorem accept_bmem (w : Word) (s : State) : (accept w s).bmem = s.bmem := rfl
@[simp] theorem accept_rstN (w : Word) (s : State) : (accept w s).rstN = s.rstN := rfl
@[simp] theorem accept_hash (w : Word) (s : State) : (accept w s).hash = s.hash := rfl
@[simp] theorem accept_events (w : Word) (s : State) : (accept w s).events = s.events := rfl
@[simp] theorem accept_resp (w : Word) (s : State) : (accept w s).resp = s.resp := rfl

/-! reject -/

@[simp] theorem reject_ie (code : ErrCode) (s : State) : (reject code s).ie = s.ie := rfl
@[simp] theorem reject_done (code : ErrCode) (s : State) : (reject code s).done = true := rfl
@[simp] theorem reject_err (code : ErrCode) (s : State) : (reject code s).err = true := rfl
@[simp] theorem reject_ovr (code : ErrCode) (s : State) : (reject code s).ovr = s.ovr := rfl
@[simp] theorem reject_errcode (code : ErrCode) (s : State) : (reject code s).errcode = code := rfl
@[simp] theorem reject_lastop (code : ErrCode) (s : State) : (reject code s).lastop = s.lastop := rfl
@[simp] theorem reject_cmd (code : ErrCode) (s : State) : (reject code s).cmd = s.cmd := rfl
@[simp] theorem reject_arg0 (code : ErrCode) (s : State) : (reject code s).arg0 = s.arg0 := rfl
@[simp] theorem reject_arg1 (code : ErrCode) (s : State) : (reject code s).arg1 = s.arg1 := rfl
@[simp] theorem reject_arg2 (code : ErrCode) (s : State) : (reject code s).arg2 = s.arg2 := rfl
@[simp] theorem reject_sa (code : ErrCode) (s : State) : (reject code s).sa = s.sa := rfl
@[simp] theorem reject_sb (code : ErrCode) (s : State) : (reject code s).sb = s.sb := rfl
@[simp] theorem reject_sz (code : ErrCode) (s : State) : (reject code s).sz = s.sz := rfl
@[simp] theorem reject_sr0 (code : ErrCode) (s : State) : (reject code s).sr0 = s.sr0 := rfl
@[simp] theorem reject_sr1 (code : ErrCode) (s : State) : (reject code s).sr1 = s.sr1 := rfl
@[simp] theorem reject_ctflag (code : ErrCode) (s : State) : (reject code s).ctflag = s.ctflag := rfl
@[simp] theorem reject_pend (code : ErrCode) (s : State) : (reject code s).pend = s.pend := rfl
@[simp] theorem reject_preg (code : ErrCode) (s : State) : (reject code s).preg = s.preg := rfl
@[simp] theorem reject_bmem (code : ErrCode) (s : State) : (reject code s).bmem = s.bmem := rfl
@[simp] theorem reject_rstN (code : ErrCode) (s : State) : (reject code s).rstN = s.rstN := rfl
@[simp] theorem reject_hash (code : ErrCode) (s : State) : (reject code s).hash = s.hash := rfl
@[simp] theorem reject_events (code : ErrCode) (s : State) : (reject code s).events = s.events := rfl
@[simp] theorem reject_resp (code : ErrCode) (s : State) : (reject code s).resp = s.resp := rfl

/-! writeSrPair -/

@[simp] theorem writeSrPair_ie (r : Coef × Coef) (s : State) : (writeSrPair r s).ie = s.ie := rfl
@[simp] theorem writeSrPair_done (r : Coef × Coef) (s : State) : (writeSrPair r s).done = s.done := rfl
@[simp] theorem writeSrPair_err (r : Coef × Coef) (s : State) : (writeSrPair r s).err = s.err := rfl
@[simp] theorem writeSrPair_ovr (r : Coef × Coef) (s : State) : (writeSrPair r s).ovr = s.ovr := rfl
@[simp] theorem writeSrPair_errcode (r : Coef × Coef) (s : State) : (writeSrPair r s).errcode = s.errcode := rfl
@[simp] theorem writeSrPair_lastop (r : Coef × Coef) (s : State) : (writeSrPair r s).lastop = s.lastop := rfl
@[simp] theorem writeSrPair_cmd (r : Coef × Coef) (s : State) : (writeSrPair r s).cmd = s.cmd := rfl
@[simp] theorem writeSrPair_arg0 (r : Coef × Coef) (s : State) : (writeSrPair r s).arg0 = s.arg0 := rfl
@[simp] theorem writeSrPair_arg1 (r : Coef × Coef) (s : State) : (writeSrPair r s).arg1 = s.arg1 := rfl
@[simp] theorem writeSrPair_arg2 (r : Coef × Coef) (s : State) : (writeSrPair r s).arg2 = s.arg2 := rfl
@[simp] theorem writeSrPair_sa (r : Coef × Coef) (s : State) : (writeSrPair r s).sa = s.sa := rfl
@[simp] theorem writeSrPair_sb (r : Coef × Coef) (s : State) : (writeSrPair r s).sb = s.sb := rfl
@[simp] theorem writeSrPair_sz (r : Coef × Coef) (s : State) : (writeSrPair r s).sz = s.sz := rfl
@[simp] theorem writeSrPair_sr0 (r : Coef × Coef) (s : State) : (writeSrPair r s).sr0 = sext32 r.1 := rfl
@[simp] theorem writeSrPair_sr1 (r : Coef × Coef) (s : State) : (writeSrPair r s).sr1 = sext32 r.2 := rfl
@[simp] theorem writeSrPair_ctflag (r : Coef × Coef) (s : State) : (writeSrPair r s).ctflag = s.ctflag := rfl
@[simp] theorem writeSrPair_pend (r : Coef × Coef) (s : State) : (writeSrPair r s).pend = s.pend := rfl
@[simp] theorem writeSrPair_preg (r : Coef × Coef) (s : State) : (writeSrPair r s).preg = s.preg := rfl
@[simp] theorem writeSrPair_bmem (r : Coef × Coef) (s : State) : (writeSrPair r s).bmem = s.bmem := rfl
@[simp] theorem writeSrPair_rstN (r : Coef × Coef) (s : State) : (writeSrPair r s).rstN = s.rstN := rfl
@[simp] theorem writeSrPair_hash (r : Coef × Coef) (s : State) : (writeSrPair r s).hash = s.hash := rfl
@[simp] theorem writeSrPair_events (r : Coef × Coef) (s : State) : (writeSrPair r s).events = s.events := rfl
@[simp] theorem writeSrPair_resp (r : Coef × Coef) (s : State) : (writeSrPair r s).resp = s.resp := rfl

/-! ackStatus -/

@[simp] theorem ackStatus_ie (w : Word) (s : State) : (ackStatus w s).ie = s.ie := rfl
@[simp] theorem ackStatus_done (w : Word) (s : State) : (ackStatus w s).done = (s.done && !w.getLsbD 1) := rfl
@[simp] theorem ackStatus_err (w : Word) (s : State) : (ackStatus w s).err = (s.err && !w.getLsbD 2) := rfl
@[simp] theorem ackStatus_ovr (w : Word) (s : State) : (ackStatus w s).ovr = (s.ovr && !w.getLsbD 3) := rfl
@[simp] theorem ackStatus_errcode (w : Word) (s : State) : (ackStatus w s).errcode = s.errcode := rfl
@[simp] theorem ackStatus_lastop (w : Word) (s : State) : (ackStatus w s).lastop = s.lastop := rfl
@[simp] theorem ackStatus_cmd (w : Word) (s : State) : (ackStatus w s).cmd = s.cmd := rfl
@[simp] theorem ackStatus_arg0 (w : Word) (s : State) : (ackStatus w s).arg0 = s.arg0 := rfl
@[simp] theorem ackStatus_arg1 (w : Word) (s : State) : (ackStatus w s).arg1 = s.arg1 := rfl
@[simp] theorem ackStatus_arg2 (w : Word) (s : State) : (ackStatus w s).arg2 = s.arg2 := rfl
@[simp] theorem ackStatus_sa (w : Word) (s : State) : (ackStatus w s).sa = s.sa := rfl
@[simp] theorem ackStatus_sb (w : Word) (s : State) : (ackStatus w s).sb = s.sb := rfl
@[simp] theorem ackStatus_sz (w : Word) (s : State) : (ackStatus w s).sz = s.sz := rfl
@[simp] theorem ackStatus_sr0 (w : Word) (s : State) : (ackStatus w s).sr0 = s.sr0 := rfl
@[simp] theorem ackStatus_sr1 (w : Word) (s : State) : (ackStatus w s).sr1 = s.sr1 := rfl
@[simp] theorem ackStatus_ctflag (w : Word) (s : State) : (ackStatus w s).ctflag = s.ctflag := rfl
@[simp] theorem ackStatus_pend (w : Word) (s : State) : (ackStatus w s).pend = s.pend := rfl
@[simp] theorem ackStatus_preg (w : Word) (s : State) : (ackStatus w s).preg = s.preg := rfl
@[simp] theorem ackStatus_bmem (w : Word) (s : State) : (ackStatus w s).bmem = s.bmem := rfl
@[simp] theorem ackStatus_rstN (w : Word) (s : State) : (ackStatus w s).rstN = s.rstN := rfl
@[simp] theorem ackStatus_hash (w : Word) (s : State) : (ackStatus w s).hash = s.hash := rfl
@[simp] theorem ackStatus_events (w : Word) (s : State) : (ackStatus w s).events = s.events := rfl
@[simp] theorem ackStatus_resp (w : Word) (s : State) : (ackStatus w s).resp = s.resp := rfl

/-! bmemWrite -/

@[simp] theorem bmemWrite_ie (w : Nat) (d : Word) (s : State) : (bmemWrite w d s).ie = s.ie := rfl
@[simp] theorem bmemWrite_done (w : Nat) (d : Word) (s : State) : (bmemWrite w d s).done = s.done := rfl
@[simp] theorem bmemWrite_err (w : Nat) (d : Word) (s : State) : (bmemWrite w d s).err = s.err := rfl
@[simp] theorem bmemWrite_ovr (w : Nat) (d : Word) (s : State) : (bmemWrite w d s).ovr = s.ovr := rfl
@[simp] theorem bmemWrite_errcode (w : Nat) (d : Word) (s : State) : (bmemWrite w d s).errcode = s.errcode := rfl
@[simp] theorem bmemWrite_lastop (w : Nat) (d : Word) (s : State) : (bmemWrite w d s).lastop = s.lastop := rfl
@[simp] theorem bmemWrite_cmd (w : Nat) (d : Word) (s : State) : (bmemWrite w d s).cmd = s.cmd := rfl
@[simp] theorem bmemWrite_arg0 (w : Nat) (d : Word) (s : State) : (bmemWrite w d s).arg0 = s.arg0 := rfl
@[simp] theorem bmemWrite_arg1 (w : Nat) (d : Word) (s : State) : (bmemWrite w d s).arg1 = s.arg1 := rfl
@[simp] theorem bmemWrite_arg2 (w : Nat) (d : Word) (s : State) : (bmemWrite w d s).arg2 = s.arg2 := rfl
@[simp] theorem bmemWrite_sa (w : Nat) (d : Word) (s : State) : (bmemWrite w d s).sa = s.sa := rfl
@[simp] theorem bmemWrite_sb (w : Nat) (d : Word) (s : State) : (bmemWrite w d s).sb = s.sb := rfl
@[simp] theorem bmemWrite_sz (w : Nat) (d : Word) (s : State) : (bmemWrite w d s).sz = s.sz := rfl
@[simp] theorem bmemWrite_sr0 (w : Nat) (d : Word) (s : State) : (bmemWrite w d s).sr0 = s.sr0 := rfl
@[simp] theorem bmemWrite_sr1 (w : Nat) (d : Word) (s : State) : (bmemWrite w d s).sr1 = s.sr1 := rfl
@[simp] theorem bmemWrite_ctflag (w : Nat) (d : Word) (s : State) : (bmemWrite w d s).ctflag = s.ctflag := rfl
@[simp] theorem bmemWrite_pend (w : Nat) (d : Word) (s : State) : (bmemWrite w d s).pend = s.pend := rfl
@[simp] theorem bmemWrite_preg (w : Nat) (d : Word) (s : State) : (bmemWrite w d s).preg = s.preg := rfl
@[simp] theorem bmemWrite_bmem (w : Nat) (d : Word) (s : State) : (bmemWrite w d s).bmem = writeCells s.bmem (4 * w) (wordBytes d) := rfl
@[simp] theorem bmemWrite_rstN (w : Nat) (d : Word) (s : State) : (bmemWrite w d s).rstN = s.rstN := rfl
@[simp] theorem bmemWrite_hash (w : Nat) (d : Word) (s : State) : (bmemWrite w d s).hash = s.hash := rfl
@[simp] theorem bmemWrite_events (w : Nat) (d : Word) (s : State) : (bmemWrite w d s).events = s.events := rfl
@[simp] theorem bmemWrite_resp (w : Nat) (d : Word) (s : State) : (bmemWrite w d s).resp = s.resp := rfl

/-! pregWrite -/

@[simp] theorem pregWrite_ie (w : Nat) (d : Word) (s : State) : (pregWrite w d s).ie = s.ie := rfl
@[simp] theorem pregWrite_done (w : Nat) (d : Word) (s : State) : (pregWrite w d s).done = s.done := rfl
@[simp] theorem pregWrite_err (w : Nat) (d : Word) (s : State) : (pregWrite w d s).err = s.err := rfl
@[simp] theorem pregWrite_ovr (w : Nat) (d : Word) (s : State) : (pregWrite w d s).ovr = s.ovr := rfl
@[simp] theorem pregWrite_errcode (w : Nat) (d : Word) (s : State) : (pregWrite w d s).errcode = s.errcode := rfl
@[simp] theorem pregWrite_lastop (w : Nat) (d : Word) (s : State) : (pregWrite w d s).lastop = s.lastop := rfl
@[simp] theorem pregWrite_cmd (w : Nat) (d : Word) (s : State) : (pregWrite w d s).cmd = s.cmd := rfl
@[simp] theorem pregWrite_arg0 (w : Nat) (d : Word) (s : State) : (pregWrite w d s).arg0 = s.arg0 := rfl
@[simp] theorem pregWrite_arg1 (w : Nat) (d : Word) (s : State) : (pregWrite w d s).arg1 = s.arg1 := rfl
@[simp] theorem pregWrite_arg2 (w : Nat) (d : Word) (s : State) : (pregWrite w d s).arg2 = s.arg2 := rfl
@[simp] theorem pregWrite_sa (w : Nat) (d : Word) (s : State) : (pregWrite w d s).sa = s.sa := rfl
@[simp] theorem pregWrite_sb (w : Nat) (d : Word) (s : State) : (pregWrite w d s).sb = s.sb := rfl
@[simp] theorem pregWrite_sz (w : Nat) (d : Word) (s : State) : (pregWrite w d s).sz = s.sz := rfl
@[simp] theorem pregWrite_sr0 (w : Nat) (d : Word) (s : State) : (pregWrite w d s).sr0 = s.sr0 := rfl
@[simp] theorem pregWrite_sr1 (w : Nat) (d : Word) (s : State) : (pregWrite w d s).sr1 = s.sr1 := rfl
@[simp] theorem pregWrite_ctflag (w : Nat) (d : Word) (s : State) : (pregWrite w d s).ctflag = s.ctflag := rfl
@[simp] theorem pregWrite_pend (w : Nat) (d : Word) (s : State) : (pregWrite w d s).pend = s.pend := rfl
@[simp] theorem pregWrite_preg (w : Nat) (d : Word) (s : State) : (pregWrite w d s).preg = writeCells s.preg (256 * (w / 128) + 2 * (w % 128)) [lo16 d, hi16 d] := rfl
@[simp] theorem pregWrite_bmem (w : Nat) (d : Word) (s : State) : (pregWrite w d s).bmem = s.bmem := rfl
@[simp] theorem pregWrite_rstN (w : Nat) (d : Word) (s : State) : (pregWrite w d s).rstN = s.rstN := rfl
@[simp] theorem pregWrite_hash (w : Nat) (d : Word) (s : State) : (pregWrite w d s).hash = s.hash := rfl
@[simp] theorem pregWrite_events (w : Nat) (d : Word) (s : State) : (pregWrite w d s).events = s.events := rfl
@[simp] theorem pregWrite_resp (w : Nat) (d : Word) (s : State) : (pregWrite w d s).resp = s.resp := rfl

/-! undefineDest -/

@[simp] theorem undefineDest_ie (i : Instr) (s : State) : (undefineDest i s).ie = s.ie := rfl
@[simp] theorem undefineDest_done (i : Instr) (s : State) : (undefineDest i s).done = s.done := rfl
@[simp] theorem undefineDest_err (i : Instr) (s : State) : (undefineDest i s).err = s.err := rfl
@[simp] theorem undefineDest_ovr (i : Instr) (s : State) : (undefineDest i s).ovr = s.ovr := rfl
@[simp] theorem undefineDest_errcode (i : Instr) (s : State) : (undefineDest i s).errcode = s.errcode := rfl
@[simp] theorem undefineDest_lastop (i : Instr) (s : State) : (undefineDest i s).lastop = s.lastop := rfl
@[simp] theorem undefineDest_cmd (i : Instr) (s : State) : (undefineDest i s).cmd = s.cmd := rfl
@[simp] theorem undefineDest_arg0 (i : Instr) (s : State) : (undefineDest i s).arg0 = s.arg0 := rfl
@[simp] theorem undefineDest_arg1 (i : Instr) (s : State) : (undefineDest i s).arg1 = s.arg1 := rfl
@[simp] theorem undefineDest_arg2 (i : Instr) (s : State) : (undefineDest i s).arg2 = s.arg2 := rfl
@[simp] theorem undefineDest_sa (i : Instr) (s : State) : (undefineDest i s).sa = s.sa := rfl
@[simp] theorem undefineDest_sb (i : Instr) (s : State) : (undefineDest i s).sb = s.sb := rfl
@[simp] theorem undefineDest_sz (i : Instr) (s : State) : (undefineDest i s).sz = s.sz := rfl
@[simp] theorem undefineDest_sr0 (i : Instr) (s : State) : (undefineDest i s).sr0 = s.sr0 := rfl
@[simp] theorem undefineDest_sr1 (i : Instr) (s : State) : (undefineDest i s).sr1 = s.sr1 := rfl
@[simp] theorem undefineDest_ctflag (i : Instr) (s : State) : (undefineDest i s).ctflag = s.ctflag := rfl
@[simp] theorem undefineDest_pend (i : Instr) (s : State) : (undefineDest i s).pend = s.pend := rfl
@[simp] theorem undefineDest_preg (i : Instr) (s : State) : (undefineDest i s).preg = i.destRegs.foldl (fun m r => eraseCells m (256 * r.1) (256 * r.2)) s.preg := rfl
@[simp] theorem undefineDest_bmem (i : Instr) (s : State) : (undefineDest i s).bmem = (destRegions i s).foldl (fun m r => eraseCells m r.1 r.2) s.bmem := rfl
@[simp] theorem undefineDest_rstN (i : Instr) (s : State) : (undefineDest i s).rstN = s.rstN := rfl
@[simp] theorem undefineDest_hash (i : Instr) (s : State) : (undefineDest i s).hash = s.hash := rfl
@[simp] theorem undefineDest_events (i : Instr) (s : State) : (undefineDest i s).events = s.events := rfl
@[simp] theorem undefineDest_resp (i : Instr) (s : State) : (undefineDest i s).resp = s.resp := rfl

end Sys2Proof.Machine
end

