-- ==== Sys2Proof/Laws/Ops.lean ====
section
/-! SUPPORT. What each shared operation can do, said once: reading and writing BMEM and PREG, ending a command, the
loop of the V forms, and the element operations of the commands. -/

namespace Sys2Proof.Machine

/-! Reading and writing bytes. -/

theorem readBytes_ok_iff {s : State} {a len : Nat} {bs : List Byte} :
    readBytes s a len = .ok bs ↔ a + len ≤ 8192 ∧ bs.length = len ∧ ∀ j, j < len → byteOf s (a + j) = bs[j]? := by
  unfold readBytes
  split
  · rename_i h
    simp only [reduceCtorEq, false_iff]
    rintro ⟨h1, -⟩
    exact absurd h1 (by simpa using h)
  · rename_i h
    have hle : a + len ≤ 8192 := by simpa using h
    rw [show (byteOf s) = readCell s.bmem from rfl]
    rw [← and_iff_right (a := a + len ≤ 8192) hle (b := bs.length = len ∧ _), ← readCells_ok_iff]
    cases hr : readCells s.bmem a len <;> simp [Except.mapError, hle]

/-- The only error of an in-range read is an undefined byte of the range. -/
theorem readBytes_error {s : State} {a len : Nat} {f : Fault} (h : readBytes s a len = .error f)
    (hr : a + len ≤ 8192) : ∃ k, f = .undefinedByte k ∧ a ≤ k ∧ k < a + len ∧ byteOf s k = none := by
  unfold readBytes at h
  rw [if_neg (by simpa using hr)] at h
  cases hc : readCells s.bmem a len with
  | ok vs => simp [hc, Except.mapError] at h
  | error k =>
    simp only [hc, Except.mapError, Except.error.injEq] at h
    have := readCells_error hc
    exact ⟨k, h.symm, this.1, this.2.1, this.2.2⟩

theorem readBytes_of_defined {s : State} {a len : Nat} (hr : a + len ≤ 8192)
    (h : ∀ j, j < len → (byteOf s (a + j)).isSome) : ∃ bs, readBytes s a len = .ok bs := by
  obtain ⟨bs, hb⟩ := readCells_of_defined (m := s.bmem) h
  exact ⟨bs, by simp [readBytes, hb, Except.mapError, show ¬ 8192 < a + len by omega]⟩

theorem readBytes_length {s : State} {a len : Nat} {bs : List Byte} (h : readBytes s a len = .ok bs) :
    bs.length = len := (readBytes_ok_iff.1 h).2.1

theorem writeBytes_ok_iff {s t : State} {a : Nat} {bs : List Byte} :
    writeBytes s a bs = .ok t ↔ a + bs.length ≤ 8192 ∧ t = { s with bmem := writeCells s.bmem a bs } := by
  unfold writeBytes
  split
  · rename_i h
    simp only [reduceCtorEq, false_iff]
    rintro ⟨h1, -⟩
    exact absurd h1 (by simpa using h)
  · rename_i h
    have hle : a + bs.length ≤ 8192 := by simpa using h
    simp [hle, eq_comm]

/-! Reading and writing polynomial registers. -/

theorem readCoeffs_ok_iff {s : State} {n i len : Nat} {p : List Coef} :
    readCoeffs s n i len = .ok p ↔ p.length = len ∧ ∀ j, j < len → coeffOf s n (i + j) = p[j]? := by
  unfold readCoeffs
  simp only [coeffOf, ← Nat.add_assoc]
  rw [← readCells_ok_iff]
  cases hr : readCells s.preg (256 * n + i) len <;> simp [Except.mapError]

theorem readCoeffs_error {s : State} {n i len : Nat} {f : Fault} (h : readCoeffs s n i len = .error f) :
    ∃ k, f = .undefinedCoeff (k / 256) (k % 256) ∧ 256 * n + i ≤ k ∧ k < 256 * n + i + len ∧
      readCell s.preg k = none := by
  unfold readCoeffs at h
  cases hc : readCells s.preg (256 * n + i) len with
  | ok vs => simp [hc, Except.mapError] at h
  | error k =>
    simp only [hc, Except.mapError, Except.error.injEq] at h
    exact ⟨k, h.symm, readCells_error hc⟩

theorem readPoly_ok_iff {s : State} {n : Nat} {p : Poly} :
    readPoly s n = .ok p ↔ n < 32 ∧ p.length = 256 ∧ ∀ j, j < 256 → coeffOf s n j = p[j]? := by
  unfold readPoly
  split
  · rename_i h
    rw [readCoeffs_ok_iff]
    simp only [Nat.zero_add]
    exact ⟨fun h' => ⟨h, h'⟩, fun h' => h'.2⟩
  · rename_i h
    simp only [reduceCtorEq, false_iff]
    rintro ⟨h1, -⟩
    exact h h1

theorem readPoly_error {s : State} {n : Nat} {f : Fault} (h : readPoly s n = .error f) (hn : n < 32) :
    ∃ k, f = .undefinedCoeff (k / 256) (k % 256) ∧ 256 * n ≤ k ∧ k < 256 * n + 256 ∧ readCell s.preg k = none := by
  unfold readPoly at h
  rw [if_pos hn] at h
  simpa using readCoeffs_error h

theorem readPoly_of_defined {s : State} {n : Nat} (hn : n < 32) (h : ∀ j, j < 256 → (coeffOf s n j).isSome) :
    ∃ p, readPoly s n = .ok p := by
  obtain ⟨p, hp⟩ := readCells_of_defined (m := s.preg) (a := 256 * n) (len := 256) h
  exact ⟨p, by simp [readPoly, readCoeffs, hn, hp, Except.mapError]⟩

theorem readPoly_length {s : State} {n : Nat} {p : Poly} (h : readPoly s n = .ok p) : p.length = 256 :=
  (readPoly_ok_iff.1 h).2.1

theorem writePoly_ok_iff {s t : State} {n : Nat} {p : Poly} :
    writePoly s n p = .ok t ↔ n < 32 ∧ t = { s with preg := writeCells s.preg (256 * n) p } := by
  unfold writePoly
  split
  · rename_i h
    have h' : n < 32 := h
    simp [h', eq_comm]
  · rename_i h
    have h' : ¬ n < 32 := h
    simp [h']

/-- A register read back after it was written gives the polynomial written. -/
theorem readPoly_writePoly_self {s t : State} {n : Nat} {p : Poly} (hp : p.length = 256)
    (h : writePoly s n p = .ok t) : readPoly t n = .ok p := by
  obtain ⟨hn, rfl⟩ := writePoly_ok_iff.1 h
  refine readPoly_ok_iff.2 ⟨hn, hp, fun j hj => ?_⟩
  rw [coeffOf, readCell_writeCells, if_pos (by omega), Nat.add_sub_cancel_left]

/-- A byte region read back after it was written gives the bytes written. -/
theorem readBytes_writeBytes_self {s t : State} {a : Nat} {bs : List Byte} (h : writeBytes s a bs = .ok t) :
    readBytes t a bs.length = .ok bs := by
  obtain ⟨hr, rfl⟩ := writeBytes_ok_iff.1 h
  refine readBytes_ok_iff.2 ⟨hr, rfl, fun j hj => ?_⟩
  rw [byteOf, readCell_writeCells, if_pos (by omega), Nat.add_sub_cancel_left]

/-! Ending a command, and the loop of the V forms. -/

theorem finish_eq_next {r : Except Fault State} {t : State} :
    finish r = .next t ↔ ∃ u, r = .ok u ∧ t = complete u := by
  cases r <;> simp [finish, eq_comm]

theorem finish_eq_fault {r : Except Fault State} {f : Fault} : finish r = .fault f ↔ r = .error f := by
  cases r <;> simp [finish]

theorem finish_ne_refused {r : Except Fault State} {e : Refusal} : finish r ≠ .refused e := by
  cases r <;> simp [finish]

@[simp] theorem complete_complete (s : State) : complete (complete s) = complete s := rfl

theorem completed_complete (s : State) : Completed (complete s) := ⟨rfl, rfl, rfl⟩

theorem forElems_false (elem : Nat → State → Except Fault State) (s : State) : forElems false elem s = elem 0 s := rfl

theorem forElems_true (elem : Nat → State → Except Fault State) (s : State) :
    forElems true elem s = (elem 0 s >>= elem 1) >>= elem 2 := by
  simp only [forElems, if_true, bind, Except.bind]
  cases elem 0 s <;> rfl

theorem except_bind_ok {α β : Type} {r : Except Fault α} {g : α → Except Fault β} {y : β} :
    (r >>= g) = .ok y ↔ ∃ x, r = .ok x ∧ g x = .ok y := by
  cases r <;> simp [bind, Except.bind]

theorem except_bind_error {α β : Type} {r : Except Fault α} {g : α → Except Fault β} {f : Fault} :
    (r >>= g) = .error f ↔ r = .error f ∨ ∃ x, r = .ok x ∧ g x = .error f := by
  cases r <;> simp [bind, Except.bind]

/-! What a command's cell operations do between two states. -/

/-- From `s` to `t` only cells of the sets `regs` (by coefficient number) and `bytes` change; a defined cell stays
defined, and the canonical forms are kept. -/
structure CellStep (regs bytes : Nat → Prop) (s t : State) : Prop where
  shape : t = { s with preg := t.preg, bmem := t.bmem }
  pregOut : ∀ k, ¬ regs k → readCell t.preg k = readCell s.preg k
  bmemOut : ∀ k, ¬ bytes k → readCell t.bmem k = readCell s.bmem k
  pregDef : ∀ k, (readCell s.preg k).isSome → (readCell t.preg k).isSome
  bmemDef : ∀ k, (readCell s.bmem k).isSome → (readCell t.bmem k).isSome
  pregWf : PolyFile.wf s.preg → PolyFile.wf t.preg
  bmemWf : Memory.wf s.bmem → Memory.wf t.bmem

theorem CellStep.refl (regs bytes : Nat → Prop) (s : State) : CellStep regs bytes s s :=
  ⟨rfl, fun _ _ => rfl, fun _ _ => rfl, fun _ h => h, fun _ h => h, fun h => h, fun h => h⟩

theorem CellStep.trans {regs bytes : Nat → Prop} {s t u : State} (h : CellStep regs bytes s t)
    (h' : CellStep regs bytes t u) : CellStep regs bytes s u where
  shape := by
    have h1 := h.shape
    have h2 := h'.shape
    rw [h1] at h2
    exact h2
  pregOut k hk := (h'.pregOut k hk).trans (h.pregOut k hk)
  bmemOut k hk := (h'.bmemOut k hk).trans (h.bmemOut k hk)
  pregDef k hk := h'.pregDef k (h.pregDef k hk)
  bmemDef k hk := h'.bmemDef k (h.bmemDef k hk)
  pregWf hw := h'.pregWf (h.pregWf hw)
  bmemWf hw := h'.bmemWf (h.bmemWf hw)

/-- Writing a whole register changes its 256 coefficients only. -/
theorem cellStep_writePoly {s t : State} {n : Nat} {p : Poly} (hp : p.length = 256) (h : writePoly s n p = .ok t)
    {regs : Nat → Prop} (bytes : Nat → Prop) (hr : ∀ k, 256 * n ≤ k → k < 256 * n + 256 → regs k) :
    CellStep regs bytes s t := by
  obtain ⟨hn, rfl⟩ := writePoly_ok_iff.1 h
  exact
    { shape := rfl
      pregOut := fun k hk => readCell_writeCells_outside _ _ _ _ (by
        rw [hp]
        by_contra hc
        exact hk (hr k (by omega) (by omega)))
      bmemOut := fun _ _ => rfl
      pregDef := fun k hk => isSome_writeCells _ _ hk
      bmemDef := fun _ hk => hk
      pregWf := fun hw => cellsWf_writeCells hw (by rw [hp]; show 256 * n + 256 ≤ 32 * 256; omega)
      bmemWf := fun hw => hw }

/-- Writing a byte string changes its bytes only. -/
theorem cellStep_writeBytes {s t : State} {a : Nat} {bs : List Byte} (h : writeBytes s a bs = .ok t)
    (regs : Nat → Prop) {bytes : Nat → Prop} (hb : ∀ k, a ≤ k → k < a + bs.length → bytes k) :
    CellStep regs bytes s t := by
  obtain ⟨hr, rfl⟩ := writeBytes_ok_iff.1 h
  exact
    { shape := rfl
      pregOut := fun _ _ => rfl
      bmemOut := fun k hk => readCell_writeCells_outside _ _ _ _ (by
        by_contra hc
        exact hk (hb k (by omega) (by omega)))
      pregDef := fun _ hk => hk
      bmemDef := fun k hk => isSome_writeCells _ _ hk
      pregWf := fun hw => hw
      bmemWf := fun hw => cellsWf_writeCells hw hr }

/-- `f` is the read of a cell of the given sets that is undefined in `s`. -/
def FaultIn (regs bytes : Nat → Prop) (s : State) (f : Fault) : Prop :=
  (∃ k, f = .undefinedByte k ∧ bytes k ∧ readCell s.bmem k = none) ∨
  (∃ k, f = .undefinedCoeff (k / 256) (k % 256) ∧ regs k ∧ readCell s.preg k = none)

/-- A cell undefined after a step of cell operations was undefined before it. -/
theorem FaultIn.back {srcR srcB dstR dstB : Nat → Prop} {s t : State} {f : Fault} (hs : CellStep dstR dstB s t)
    (h : FaultIn srcR srcB t f) : FaultIn srcR srcB s f := by
  rcases h with ⟨k, hf, hk, hn⟩ | ⟨k, hf, hk, hn⟩
  · refine .inl ⟨k, hf, hk, ?_⟩
    by_contra hc
    have := hs.bmemDef k (Option.isSome_iff_ne_none.2 hc)
    rw [hn] at this
    simp at this
  · refine .inr ⟨k, hf, hk, ?_⟩
    by_contra hc
    have := hs.pregDef k (Option.isSome_iff_ne_none.2 hc)
    rw [hn] at this
    simp at this

/-- A run of cell operations: what it changes, and, when the command's checks `P` hold, the only way it stops. -/
structure Behaves (P : Prop) (srcR srcB dstR dstB : Nat → Prop) (s : State) (r : Except Fault State) : Prop where
  ok : ∀ t, r = .ok t → CellStep dstR dstB s t
  err : P → ∀ f, r = .error f → FaultIn srcR srcB s f

theorem Behaves.bind {P : Prop} {srcR srcB dstR dstB : Nat → Prop} {s : State} {r : Except Fault State}
    {g : State → Except Fault State} (h : Behaves P srcR srcB dstR dstB s r)
    (hg : ∀ t, CellStep dstR dstB s t → Behaves P srcR srcB dstR dstB t (g t)) :
    Behaves P srcR srcB dstR dstB s (r >>= g) where
  ok u hu := by
    obtain ⟨t, ht, hu⟩ := except_bind_ok.1 hu
    exact (h.ok t ht).trans ((hg t (h.ok t ht)).ok u hu)
  err hP f hf := by
    rcases except_bind_error.1 hf with hf | ⟨t, ht, hf⟩
    · exact h.err hP f hf
    · exact ((hg t (h.ok t ht)).err hP f hf).back (h.ok t ht)

/-- The V loop behaves as its elements do. -/
theorem behaves_forElems {P : Prop} {srcR srcB dstR dstB : Nat → Prop} {s : State} {v : Bool}
    {elem : Nat → State → Except Fault State}
    (h : ∀ i t, i < vSpan v → CellStep dstR dstB s t → Behaves P srcR srcB dstR dstB t (elem i t)) :
    Behaves P srcR srcB dstR dstB s (forElems v elem s) := by
  cases v with
  | false => exact h 0 s (by decide) (.refl _ _ s)
  | true =>
    rw [forElems_true]
    refine Behaves.bind (Behaves.bind (h 0 s (by decide) (.refl _ _ s)) fun t ht => h 1 t (by decide) ht)
      fun t ht => h 2 t (by decide) ht

/-- A read of a polynomial register before the rest of an operation. -/
theorem behaves_readPoly {P : Prop} {srcR srcB dstR dstB : Nat → Prop} {s : State} {n : Nat}
    {g : Poly → Except Fault State} (hn : P → n < 32)
    (hsrc : P → ∀ k, 256 * n ≤ k → k < 256 * n + 256 → srcR k)
    (hg : ∀ p, readPoly s n = .ok p → Behaves P srcR srcB dstR dstB s (g p)) :
    Behaves P srcR srcB dstR dstB s (readPoly s n >>= g) where
  ok t ht := by
    obtain ⟨p, hp, ht⟩ := except_bind_ok.1 ht
    exact (hg p hp).ok t ht
  err hP f hf := by
    rcases except_bind_error.1 hf with hf | ⟨p, hp, hf⟩
    · obtain ⟨k, rfl, h1, h2, h3⟩ := readPoly_error hf (hn hP)
      exact .inr ⟨k, rfl, hsrc hP k h1 h2, h3⟩
    · exact (hg p hp).err hP f hf

/-- A read of a byte region before the rest of an operation. -/
theorem behaves_readBytes {P : Prop} {srcR srcB dstR dstB : Nat → Prop} {s : State} {a len : Nat}
    {g : List Byte → Except Fault State} (hr : P → a + len ≤ 8192)
    (hsrc : P → ∀ k, a ≤ k → k < a + len → srcB k)
    (hg : ∀ b, readBytes s a len = .ok b → Behaves P srcR srcB dstR dstB s (g b)) :
    Behaves P srcR srcB dstR dstB s (readBytes s a len >>= g) where
  ok t ht := by
    obtain ⟨b, hb, ht⟩ := except_bind_ok.1 ht
    exact (hg b hb).ok t ht
  err hP f hf := by
    rcases except_bind_error.1 hf with hf | ⟨b, hb, hf⟩
    · obtain ⟨k, rfl, h1, h2, h3⟩ := readBytes_error hf (hr hP)
      exact .inl ⟨k, rfl, hsrc hP k h1 h2, h3⟩
    · exact (hg b hb).err hP f hf

/-- A write of a polynomial register at the end of an operation. -/
theorem behaves_writePoly {P : Prop} {srcR srcB dstR dstB : Nat → Prop} {s : State} {n : Nat} {p : Poly}
    (hp : p.length = 256) (hn : P → n < 32) (hdst : ∀ k, 256 * n ≤ k → k < 256 * n + 256 → dstR k) :
    Behaves P srcR srcB dstR dstB s (writePoly s n p) where
  ok _ ht := cellStep_writePoly hp ht dstB hdst
  err hP f hf := by
    have h' : n < Config.npreg := hn hP
    simp [writePoly, h'] at hf

/-- A write of a byte region at the end of an operation. -/
theorem behaves_writeBytes {P : Prop} {srcR srcB dstR dstB : Nat → Prop} {s : State} {a : Nat} {bs : List Byte}
    (hr : P → a + bs.length ≤ 8192) (hdst : ∀ k, a ≤ k → k < a + bs.length → dstB k) :
    Behaves P srcR srcB dstR dstB s (writeBytes s a bs) where
  ok _ ht := cellStep_writeBytes ht dstR hdst
  err hP f hf := by
    have h' : ¬ Config.bmemSize < a + bs.length := Nat.not_lt.2 (hr hP)
    simp [writeBytes, h'] at hf

end Sys2Proof.Machine
end

