-- ==== Sys2Proof/Laws/Bus.lean ====
section
/-! SUPPORT. What one bus transaction does as a step, the target of every mapped offset, and what Check depends on. -/

namespace Sys2Proof.Machine

/-! What an address selects (R82, R83). -/

theorem target_csr {a : BitVec 16} (h : a.toNat < 0x40) (h4 : a.toNat % 4 = 0) : target a = .csr (a.toNat / 4) := by
  simp [target, h, h4]

theorem target_zrom {a : BitVec 16} {w : Nat} (hw : w < 64) (h : a.toNat = 0x100 + 4 * w) : target a = .zrom w := by
  simp only [target]
  split_ifs <;> first | omega | (congr 1; omega)

theorem target_bmem {a : BitVec 16} {w : Nat} (hw : w < 2048) (h : a.toNat = 0x2000 + 4 * w) : target a = .bmem w := by
  simp only [target]
  split_ifs <;> first | omega | (congr 1; omega)

theorem target_preg {a : BitVec 16} {w : Nat} (hw : w < 4096) (h : a.toNat = 0x8000 + 4 * w) : target a = .preg w := by
  simp only [target]
  split_ifs <;> first | omega | (congr 1; omega)

theorem target_misaligned {a : BitVec 16} (h : a.toNat % 4 ≠ 0) : target a = .misaligned := by
  simp only [target]
  rw [if_pos h]

theorem target_unmapped {a : BitVec 16} (h4 : a.toNat % 4 = 0)
    (h : (0x0040 ≤ a.toNat ∧ a.toNat < 0x0100) ∨ (0x0200 ≤ a.toNat ∧ a.toNat < 0x2000) ∨
      (0x4000 ≤ a.toNat ∧ a.toNat < 0x8000) ∨ 0xC000 ≤ a.toNat) : target a = .unmapped := by
  simp only [target]
  split_ifs <;> first | rfl | omega

/-! A transaction as a step (R81). -/

theorem step_write {s : State} {a : BitVec 16} {d : Word} {rest : List Event} (h : s.events = .write a d :: rest)
    (hr : s.rstN = true) :
    step s = .next { (hostWrite a d { s with events := rest }).1 with
      resp := some (hostWrite a d { s with events := rest }).2 } := by
  rw [step, turn, h]
  simp only [handle, hostWriteTurn, hr, if_true]

theorem step_read {s : State} {a : BitVec 16} {rest : List Event} (h : s.events = .read a :: rest)
    (hr : s.rstN = true) :
    step s = match hostRead a { s with events := rest } with
      | .error f => .fault f
      | .ok r => .next { s with events := rest, resp := some r } := by
  rw [step, turn, h]
  simp only [handle, hostReadTurn]
  refine (if_pos hr).trans ?_
  cases hostRead a { s with events := rest } <;> rfl

/-! Check reads the word and the three ARG registers (R202). -/

theorem regions_congr (i : Instr) {s t : State} (h0 : t.arg0 = s.arg0) (h1 : t.arg1 = s.arg1) (h2 : t.arg2 = s.arg2) :
    regions i t = regions i s := by
  cases i <;> simp only [regions, sourceRegions, destRegions, arg0Off, arg1Off, arg2Len, h0, h1, h2]

theorem checkInstr_congr (i : Instr) {s t : State} (h0 : t.arg0 = s.arg0) (h1 : t.arg1 = s.arg1)
    (h2 : t.arg2 = s.arg2) : checkInstr i t = checkInstr i s := by
  rw [checkInstr, checkInstr, regions_congr i h0 h1 h2]

theorem check_congr (w : Word) {s t : State} (h0 : t.arg0 = s.arg0) (h1 : t.arg1 = s.arg1) (h2 : t.arg2 = s.arg2) :
    check w t = check w s := by
  unfold check
  cases decode w with
  | error e => rfl
  | ok i => exact checkInstr_congr i h0 h1 h2

end Sys2Proof.Machine
end

