-- ==== Sys2Proof/Laws/Exec.lean ====
section
/-! SUPPORT. What a command's meaning can do, said once for all 34 (`exec_acts`): it waits, or it completes having
changed cells of its destination set and the result registers its opcode names, or it stops at a source cell that is
undefined. -/

namespace Sys2Proof.Machine

/-- Coefficient number k belongs to one of the register spans. -/
def InRegs (rs : List (Nat × Nat)) (k : Nat) : Prop := ∃ r ∈ rs, 256 * r.1 ≤ k ∧ k < 256 * (r.1 + r.2)

/-- Byte a belongs to one of the regions. -/
def InBytes (rs : List (Nat × Nat)) (a : Nat) : Prop := ∃ r ∈ rs, r.1 ≤ a ∧ a < r.1 + r.2

theorem inDestRegs_iff {i : Instr} {k : Nat} : inDestRegs i k = true ↔ InRegs i.destRegs k := by
  simp [inDestRegs, InRegs]

theorem inDestRegions_iff {i : Instr} {s : State} {a : Nat} :
    inDestRegions i s a = true ↔ InBytes (destRegions i s) a := by
  simp [inDestRegions, InBytes]

/-- The checks that matter to an accepted command, spelled out (R202). -/
theorem checkInstr_ok_iff {i : Instr} {s : State} :
    checkInstr i s = .ok ↔ (∀ r ∈ i.usedRegs, r.1 + r.2 - 1 ≤ 31) ∧ ∀ r ∈ regions i s, r.1 + r.2 ≤ 8192 := by
  unfold checkInstr
  have hw : i.wf = true ↔ ∀ r ∈ i.usedRegs, r.1 + r.2 - 1 ≤ 31 := by
    simp only [Instr.wf, List.all_eq_true, spanOk, decide_eq_true_eq]
    exact forall₂_congr fun r _ => by omega
  have hg : (regions i s).all regionOk = true ↔ ∀ r ∈ regions i s, r.1 + r.2 ≤ 8192 := by
    simp only [List.all_eq_true, regionOk, decide_eq_true_eq]
  rw [← hw, ← hg]
  split_ifs <;> simp_all

/-- What a command that completes leaves before the completion itself: from `s` to `u` only its destination set and the
results its opcode names change. -/
structure ActsTo (i : Instr) (s u : State) : Prop where
  shape : u = { s with preg := u.preg, bmem := u.bmem, sr0 := u.sr0, sr1 := u.sr1, ctflag := u.ctflag }
  pregOut : ∀ k, ¬ InRegs i.destRegs k → readCell u.preg k = readCell s.preg k
  bmemOut : ∀ a, ¬ InBytes (destRegions i s) a → readCell u.bmem a = readCell s.bmem a
  pregWf : PolyFile.wf s.preg → PolyFile.wf u.preg
  bmemWf : Memory.wf s.bmem → Memory.wf u.bmem
  sr0 : u.sr0 = s.sr0 ∨
    (i ∈ [.montr, .barr, .fqmul, .bflyf, .bflyi, .basemul, .cmov16 .f1, .cmov16 .f0] ∧ ∃ c, u.sr0 = sext32 c)
  sr1 : u.sr1 = s.sr1 ∨ (i ∈ [.bflyf, .bflyi, .basemul] ∧ ∃ c, u.sr1 = sext32 c)
  ctflag : u.ctflag = s.ctflag ∨ i = .verify

/-- The commands that ask HASH for something (R100 to R103). -/
def usesHash : Instr → Bool
  | .getnoise _ _ _ | .genentry _ | .genmatrix _ _ | .keygen | .encaps | .decaps => true
  | .nop | .montr | .barr | .fqmul | .bflyf | .bflyi | .basemul => false
  | .ntt _ _ _ | .intt _ _ _ | .padd _ _ _ _ | .psub _ _ _ _ | .preduce _ _ _ | .ptomont _ _ _ => false
  | .pbasemul _ _ _ _ | .pvacc _ _ _ => false
  | .tobytes _ _ | .frombytes _ _ | .compress10 _ _ | .decompress10 _ _ | .compress4 _ _ | .decompress4 _ _ => false
  | .frommsg _ | .tomsg _ | .cbd2 _ _ => false
  | .verify | .cmovb _ | .cmov16 _ | .pcmov _ _ _ _ => false

/-- Everything a command's meaning can answer. -/
structure Acts (i : Instr) (s : State) (r : Result) : Prop where
  next : ∀ t, r = .next t → (t = s ∧ usesHash i = true) ∨ ∃ u, t = complete u ∧ ActsTo i s u
  fault : checkInstr i s = .ok → ∀ f, r = .fault f → FaultIn (InRegs i.sourceRegs) (InBytes (sourceRegions i s)) s f
  refused : ∀ e, r ≠ .refused e

theorem CellStep.actsTo {i : Instr} {s u : State}
    (h : CellStep (InRegs i.destRegs) (InBytes (destRegions i s)) s u) : ActsTo i s u where
  shape := by
    have hs := h.shape
    rw [hs]
  pregOut := h.pregOut
  bmemOut := h.bmemOut
  pregWf := h.pregWf
  bmemWf := h.bmemWf
  sr0 := .inl (by rw [h.shape])
  sr1 := .inl (by rw [h.shape])
  ctflag := .inl (by rw [h.shape])

/-- A run of cell operations, ended by completion, is one of the allowed acts. -/
theorem Behaves.acts {i : Instr} {s : State} {r : Except Fault State}
    (h : Behaves (checkInstr i s = .ok) (InRegs i.sourceRegs) (InBytes (sourceRegions i s)) (InRegs i.destRegs)
      (InBytes (destRegions i s)) s r) : Acts i s (finish r) where
  next t ht := by
    obtain ⟨u, hu, rfl⟩ := finish_eq_next.1 ht
    exact .inr ⟨u, rfl, (h.ok u hu).actsTo⟩
  fault hc f hf := h.err hc f (finish_eq_fault.1 hf)
  refused _ := finish_ne_refused

/-- A scalar command: it always completes, with the results it computes. -/
theorem acts_scalar {i : Instr} {s u : State} (h : ActsTo i s u) : Acts i s (.next (complete u)) where
  next t ht := .inr ⟨u, by simpa using ht.symm, h⟩
  fault _ f hf := by simp at hf
  refused e he := by simp at he

/-- A HASH wait: the command acts as its rest does, or waits. -/
theorem acts_withHash {i : Instr} {s : State} {k : Nat → Result} (hh : usesHash i = true) (h : ∀ n, Acts i s (k n)) :
    Acts i s (withHash s k) := by
  unfold withHash
  split
  · exact ⟨fun t ht => .inl ⟨by simpa using ht.symm, hh⟩, fun _ f hf => by simp at hf, fun e he => by simp at he⟩
  · exact h _

/-- A sampler wait, likewise. -/
theorem acts_whenSampled {i : Instr} {s : State} {α : Type} {r : Option α} {k : α → Result} (hh : usesHash i = true)
    (h : ∀ x, r = some x → Acts i s (k x)) : Acts i s (whenSampled s r k) := by
  unfold whenSampled
  split
  · exact ⟨fun t ht => .inl ⟨by simpa using ht.symm, hh⟩, fun _ f hf => by simp at hf, fun e he => by simp at he⟩
  · exact h _ rfl

/-- The read of a source region before the rest. -/
theorem acts_withBytes {i : Instr} {s : State} {a len : Nat} {k : List Byte → Result}
    (hm : (a, len) ∈ sourceRegions i s) (h : ∀ b, readBytes s a len = .ok b → Acts i s (k b)) :
    Acts i s (withBytes s a len k) := by
  unfold withBytes
  cases hb : readBytes s a len with
  | ok b => exact h b hb
  | error f =>
    refine ⟨fun t ht => by simp at ht, fun hc g hg => ?_, fun e he => by simp at he⟩
    have hr := (checkInstr_ok_iff.1 hc).2 (a, len) (by simp [regions, hm])
    obtain ⟨j, rfl, h1, h2, h3⟩ := readBytes_error hb hr
    simp only [Host.Outcome.fault.injEq] at hg
    subst hg
    exact .inl ⟨j, rfl, ⟨(a, len), hm, h1, h2⟩, h3⟩

theorem inRegs_intro {rs : List (Nat × Nat)} {r m k : Nat} {i : Nat} (hm : (r, m) ∈ rs) (hi : i < m)
    (h1 : 256 * (r + i) ≤ k) (h2 : k < 256 * (r + i) + 256) : InRegs rs k :=
  ⟨(r, m), hm, by simp; omega, by simp; omega⟩

/-! The element operations, with their span of registers or bytes. -/

theorem behaves_mapElem {P : Prop} {srcR dstR : List (Nat × Nat)} {srcB dstB : Nat → Prop} {s : State} {v : Bool}
    {f : Poly → Poly} {pd pa : PReg} (hf : ∀ a : Poly, a.length = 256 → (f a).length = 256)
    (hP : P → pd.toNat + vSpan v ≤ 32 ∧ pa.toNat + vSpan v ≤ 32) (hd : (pd.toNat, vSpan v) ∈ dstR)
    (hs : (pa.toNat, vSpan v) ∈ srcR) :
    Behaves P (InRegs srcR) srcB (InRegs dstR) dstB s (forElems v (mapElem f pd pa) s) :=
  behaves_forElems fun i t hi _ =>
    behaves_readPoly (fun p => by have := hP p; omega) (fun _ k h1 h2 => inRegs_intro hs hi h1 h2) fun a ha =>
      behaves_writePoly (hf a (readPoly_length ha)) (fun p => by have := hP p; omega)
        fun k h1 h2 => inRegs_intro hd hi h1 h2

theorem behaves_zipElem {P : Prop} {srcR dstR : List (Nat × Nat)} {srcB dstB : Nat → Prop} {s : State} {v : Bool}
    {f : Poly → Poly → Poly} {pd pa pb : PReg}
    (hf : ∀ a b : Poly, a.length = 256 → b.length = 256 → (f a b).length = 256)
    (hP : P → pd.toNat + vSpan v ≤ 32 ∧ pa.toNat + vSpan v ≤ 32 ∧ pb.toNat + vSpan v ≤ 32)
    (hd : (pd.toNat, vSpan v) ∈ dstR) (hs : (pa.toNat, vSpan v) ∈ srcR) (hs' : (pb.toNat, vSpan v) ∈ srcR) :
    Behaves P (InRegs srcR) srcB (InRegs dstR) dstB s (forElems v (zipElem f pd pa pb) s) :=
  behaves_forElems fun i t hi _ =>
    behaves_readPoly (fun p => by have := hP p; omega) (fun _ k h1 h2 => inRegs_intro hs hi h1 h2) fun a ha =>
      behaves_readPoly (fun p => by have := hP p; omega) (fun _ k h1 h2 => inRegs_intro hs' hi h1 h2) fun b hb =>
        behaves_writePoly (hf a b (readPoly_length ha) (readPoly_length hb)) (fun p => by have := hP p; omega)
          fun k h1 h2 => inRegs_intro hd hi h1 h2

theorem mul_bound {stride i n : Nat} (hi : i < n) : stride * i + stride ≤ stride * n := by
  calc stride * i + stride = stride * (i + 1) := by ring
    _ ≤ stride * n := Nat.mul_le_mul_left _ hi

/-- The element operation sees ARG0 as the command found it: no cell operation writes it. -/
theorem CellStep.arg0Off {regs bytes : Nat → Prop} {s t : State} (h : CellStep regs bytes s t) :
    arg0Off t = arg0Off s := by
  unfold Machine.arg0Off
  rw [h.shape]

theorem behaves_packElem {P : Prop} {srcR : List (Nat × Nat)} {dstB : List (Nat × Nat)} {srcB dstR : Nat → Prop}
    {s : State} {v : Bool} {f : Poly → List Byte} {stride : Nat} {pa : PReg} (hf : ∀ a : Poly, (f a).length = stride)
    (hP : P → pa.toNat + vSpan v ≤ 32 ∧ arg0Off s + stride * vSpan v ≤ 8192)
    (hs : (pa.toNat, vSpan v) ∈ srcR) (hd : (arg0Off s, stride * vSpan v) ∈ dstB) :
    Behaves P (InRegs srcR) srcB dstR (InBytes dstB) s (forElems v (packElem f stride pa) s) :=
  behaves_forElems fun i t hi ht => by
    have hb := mul_bound (stride := stride) hi
    refine behaves_readPoly (fun p => by have := hP p; omega) (fun _ k h1 h2 => inRegs_intro hs hi h1 h2) fun a _ =>
      behaves_writeBytes (fun p => ?_) fun k h1 h2 => ⟨_, hd, ?_, ?_⟩
    · have := hP p
      rw [hf, ht.arg0Off]; omega
    · rw [ht.arg0Off] at h1; simp only []; omega
    · rw [ht.arg0Off, hf] at h2; simp only []; omega

theorem behaves_unpackElem {P : Prop} {dstR : List (Nat × Nat)} {srcB : List (Nat × Nat)} {srcR dstB : Nat → Prop}
    {s : State} {v : Bool} {f : List Byte → Poly} {stride : Nat} {pd : PReg} (hf : ∀ b, (f b).length = 256)
    (hP : P → pd.toNat + vSpan v ≤ 32 ∧ arg0Off s + stride * vSpan v ≤ 8192)
    (hs : (arg0Off s, stride * vSpan v) ∈ srcB) (hd : (pd.toNat, vSpan v) ∈ dstR) :
    Behaves P srcR (InBytes srcB) (InRegs dstR) dstB s (forElems v (unpackElem f stride pd) s) :=
  behaves_forElems fun i t hi ht => by
    have hb := mul_bound (stride := stride) hi
    refine behaves_readBytes (fun p => ?_) (fun _ k h1 h2 => ⟨_, hs, ?_, ?_⟩) fun b _ =>
      behaves_writePoly (hf b) (fun p => by have := hP p; omega) fun k h1 h2 => inRegs_intro hd hi h1 h2
    · have := hP p
      rw [ht.arg0Off]; omega
    · rw [ht.arg0Off] at h1; simp only []; omega
    · rw [ht.arg0Off] at h2; simp only []; omega

theorem behaves_noiseElem {P : Prop} {dstR : List (Nat × Nat)} {srcR srcB dstB : Nat → Prop} {s : State} {v : Bool}
    {H : Config.HashFns} {seed : List Byte} {nonce : BitVec 8} {pd : PReg} (hP : P → pd.toNat + vSpan v ≤ 32)
    (hd : (pd.toNat, vSpan v) ∈ dstR) :
    Behaves P srcR srcB (InRegs dstR) dstB s (forElems v (noiseElem H seed pd nonce) s) :=
  behaves_forElems fun i t hi _ =>
    behaves_writePoly (cbd2_length _) (fun p => by have := hP p; omega) fun k h1 h2 => inRegs_intro hd hi h1 h2

theorem behaves_writeVec {P : Prop} {srcR srcB dstB : Nat → Prop} {dstR : List (Nat × Nat)} {s : State} {r m n : Nat}
    {a : Vec3 Poly} (ha : a.v0.length = 256 ∧ a.v1.length = 256 ∧ a.v2.length = 256) (hd : (r, m) ∈ dstR)
    (hr : r ≤ n ∧ n + 3 ≤ r + m) (hP : P → n + 3 ≤ 32) :
    Behaves P srcR srcB (InRegs dstR) dstB s (writeVec s n a) := by
  refine Behaves.bind (behaves_writePoly ha.1 (fun p => ?_) fun k h1 h2 => ⟨_, hd, ?_, ?_⟩) fun t _ =>
    Behaves.bind (behaves_writePoly ha.2.1 (fun p => ?_) fun k h1 h2 => ⟨_, hd, ?_, ?_⟩) fun u _ =>
      behaves_writePoly ha.2.2 (fun p => ?_) fun k h1 h2 => ⟨_, hd, ?_, ?_⟩
  all_goals first | (have := hP p; omega) | (simp only []; omega)

theorem behaves_readVec {P : Prop} {srcR : List (Nat × Nat)} {srcB dstR dstB : Nat → Prop} {s : State} {n : Nat}
    {g : Vec3 Poly → Except Fault State} (hn : P → n + 3 ≤ 32) (hs : (n, 3) ∈ srcR)
    (hg : ∀ p, readVec s n = .ok p → Behaves P (InRegs srcR) srcB dstR dstB s (g p)) :
    Behaves P (InRegs srcR) srcB dstR dstB s (readVec s n >>= g) where
  ok t ht := by
    obtain ⟨p, hp, ht⟩ := except_bind_ok.1 ht
    exact (hg p hp).ok t ht
  err hP f hf := by
    have hn := hn hP
    rcases except_bind_error.1 hf with hf | ⟨p, hp, hf⟩
    · have key : ∀ m, m < 3 → ∀ f, readPoly s (n + m) = .error f → FaultIn (InRegs srcR) srcB s f := by
        intro m hm f hf
        obtain ⟨k, rfl, h1, h2, h3⟩ := readPoly_error hf (by omega)
        exact .inr ⟨k, rfl, inRegs_intro hs hm h1 h2, h3⟩
      rcases except_bind_error.1 hf with hf | ⟨p0, h0, hf⟩
      · exact key 0 (by omega) f hf
      rcases except_bind_error.1 hf with hf | ⟨p1, h1, hf⟩
      · exact key 1 (by omega) f hf
      rcases except_bind_error.1 hf with hf | ⟨p2, h2, hf⟩
      · exact key 2 (by omega) f hf
      · simp [pure, Except.pure] at hf
    · exact (hg p hp).err hP f hf

/-- The registers and regions of an accepted command are in range, with its span unfolded by `simp`. -/
theorem usedRegs_ok {i : Instr} {s : State} (h : checkInstr i s = .ok) {r m : Nat} (hm : (r, m) ∈ i.usedRegs) :
    r + m ≤ 32 := by
  have := (checkInstr_ok_iff.1 h).1 (r, m) hm
  simp only [] at this
  omega

theorem regions_ok {i : Instr} {s : State} (h : checkInstr i s = .ok) {a len : Nat} (hm : (a, len) ∈ regions i s) :
    a + len ≤ 8192 := (checkInstr_ok_iff.1 h).2 (a, len) hm

/-! The commands. -/

theorem acts_mapElem {i : Instr} {s : State} {v : Bool} {f : Poly → Poly} {pd pa : PReg}
    (hf : ∀ a : Poly, a.length = 256 → (f a).length = 256) (hd : (pd.toNat, vSpan v) ∈ i.destRegs)
    (hs : (pa.toNat, vSpan v) ∈ i.sourceRegs) : Acts i s (finish (forElems v (mapElem f pd pa) s)) :=
  (behaves_mapElem hf (fun h => ⟨usedRegs_ok h (by simp [Instr.usedRegs, hd]),
    usedRegs_ok h (by simp [Instr.usedRegs, hs])⟩) hd hs).acts

theorem acts_zipElem {i : Instr} {s : State} {v : Bool} {f : Poly → Poly → Poly} {pd pa pb : PReg}
    (hf : ∀ a b : Poly, a.length = 256 → b.length = 256 → (f a b).length = 256)
    (hd : (pd.toNat, vSpan v) ∈ i.destRegs) (hs : (pa.toNat, vSpan v) ∈ i.sourceRegs)
    (hs' : (pb.toNat, vSpan v) ∈ i.sourceRegs) : Acts i s (finish (forElems v (zipElem f pd pa pb) s)) :=
  (behaves_zipElem hf (fun h => ⟨usedRegs_ok h (by simp [Instr.usedRegs, hd]),
    usedRegs_ok h (by simp [Instr.usedRegs, hs]),
    usedRegs_ok h (by simp [Instr.usedRegs, hs'])⟩) hd hs hs').acts

theorem acts_packElem {i : Instr} {s : State} {v : Bool} {f : Poly → List Byte} {stride : Nat} {pa : PReg}
    (hf : ∀ a : Poly, (f a).length = stride) (hs : (pa.toNat, vSpan v) ∈ i.sourceRegs)
    (hd : (arg0Off s, stride * vSpan v) ∈ destRegions i s) : Acts i s (finish (forElems v (packElem f stride pa) s)) :=
  (behaves_packElem hf (fun h => ⟨usedRegs_ok h (by simp [Instr.usedRegs, hs]),
    regions_ok h (by simp [regions, hd])⟩) hs hd).acts

theorem acts_unpackElem {i : Instr} {s : State} {v : Bool} {f : List Byte → Poly} {stride : Nat} {pd : PReg}
    (hf : ∀ b, (f b).length = 256) (hs : (arg0Off s, stride * vSpan v) ∈ sourceRegions i s)
    (hd : (pd.toNat, vSpan v) ∈ i.destRegs) : Acts i s (finish (forElems v (unpackElem f stride pd) s)) :=
  (behaves_unpackElem hf (fun h => ⟨usedRegs_ok h (by simp [Instr.usedRegs, hd]),
    regions_ok h (by simp [regions, hs])⟩) hs hd).acts

/-- A result register written by a scalar command. -/
theorem actsTo_results {i : Instr} {s : State} {x y : Word} {c : Bool}
    (h0 : x = s.sr0 ∨ (i ∈ [.montr, .barr, .fqmul, .bflyf, .bflyi, .basemul, .cmov16 .f1, .cmov16 .f0] ∧
      ∃ c, x = sext32 c))
    (h1 : y = s.sr1 ∨ (i ∈ [.bflyf, .bflyi, .basemul] ∧ ∃ c, y = sext32 c)) (hc : c = s.ctflag ∨ i = .verify) :
    ActsTo i s { s with sr0 := x, sr1 := y, ctflag := c } :=
  ⟨rfl, fun _ _ => rfl, fun _ _ => rfl, id, id, h0, h1, hc⟩

theorem acts_getnoise (v : Bool) (pd : PReg) (nonce : BitVec 8) (s : State) :
    Acts (.getnoise v pd nonce) s (execGetnoise v pd nonce s) :=
  acts_withBytes (by simp [sourceRegions]) fun _ _ => acts_withHash rfl fun _ =>
    Behaves.acts (behaves_noiseElem (fun h => usedRegs_ok h (by simp [Instr.usedRegs, Instr.destRegs]))
      (by simp [Instr.destRegs]))

theorem acts_genentry (pd : PReg) (s : State) : Acts (.genentry pd) s (execGenentry pd s) :=
  acts_withBytes (by simp [sourceRegions]) fun _ _ => acts_withHash rfl fun _ =>
    acts_whenSampled rfl fun _ hp =>
      Behaves.acts (behaves_writePoly (sampleNtt_length hp) (fun _ => pd.isLt)
        fun k h1 h2 => ⟨(pd.toNat, 1), by simp [Instr.destRegs], h1, by simp only []; omega⟩)

theorem acts_genmatrix (pd : PReg) (t : Bool) (s : State) : Acts (.genmatrix pd t) s (execGenmatrix pd t s) :=
  acts_withBytes (by simp [sourceRegions]) fun _ _ => acts_withHash rfl fun _ =>
    acts_whenSampled rfl fun a ha => by
      obtain ⟨⟨h00, h01, h02⟩, ⟨h10, h11, h12⟩, h20, h21, h22⟩ := genMatrix_eq_some ha
      have hd : (pd.toNat, 9) ∈ (Instr.genmatrix pd t).destRegs := by simp [Instr.destRegs]
      have hr : checkInstr (.genmatrix pd t) s = .ok → pd.toNat + 9 ≤ 32 := fun h =>
        usedRegs_ok h (by simp [Instr.usedRegs, Instr.destRegs])
      refine Behaves.acts (Behaves.bind (behaves_writeVec ⟨sampleNtt_length h00, sampleNtt_length h01,
        sampleNtt_length h02⟩ hd ⟨by omega, by omega⟩ fun p => by have := hr p; omega) fun u _ =>
        Behaves.bind (behaves_writeVec ⟨sampleNtt_length h10, sampleNtt_length h11, sampleNtt_length h12⟩ hd
          ⟨by omega, by omega⟩ fun p => by have := hr p; omega) fun w _ =>
        behaves_writeVec ⟨sampleNtt_length h20, sampleNtt_length h21, sampleNtt_length h22⟩ hd
          ⟨by omega, by omega⟩ fun p => by have := hr p; omega)

theorem acts_pvacc (pd pa pb : PReg) (s : State) : Acts (.pvacc pd pa pb) s (execPvacc pd pa pb s) :=
  Behaves.acts <|
    behaves_readVec (fun h => usedRegs_ok h (by simp [Instr.usedRegs, Instr.sourceRegs]))
      (by simp [Instr.sourceRegs]) fun _ _ =>
    behaves_readVec (fun h => usedRegs_ok h (by simp [Instr.usedRegs, Instr.sourceRegs]))
      (by simp [Instr.sourceRegs]) fun _ _ =>
    behaves_writePoly (polyVecAcc_length _ _) (fun _ => pd.isLt)
      fun k h1 h2 => ⟨(pd.toNat, 1), by simp [Instr.destRegs], h1, by simp only []; omega⟩

theorem acts_verify (s : State) : Acts .verify s (execVerify s) where
  next t ht := by
    obtain ⟨u, hu, rfl⟩ := finish_eq_next.1 ht
    obtain ⟨a, -, hu⟩ := except_bind_ok.1 hu
    obtain ⟨b, -, hu⟩ := except_bind_ok.1 hu
    simp only [pure, Except.pure, Except.ok.injEq] at hu
    subst hu
    exact .inr ⟨_, rfl, actsTo_results (.inl rfl) (.inl rfl) (.inr rfl)⟩
  fault hc f hf := by
    have h := (behaves_readBytes (s := s) (srcR := fun _ => False) (dstR := fun _ => False) (dstB := fun _ => False)
      (P := checkInstr .verify s = .ok) (srcB := InBytes (sourceRegions .verify s)) (a := arg0Off s) (len := arg2Len s)
      (g := fun a => readBytes s (arg1Off s) (arg2Len s) >>= fun b => .ok s)
      (fun h => regions_ok h (by simp [regions, sourceRegions]))
      (fun _ k h1 h2 => ⟨_, by simp [sourceRegions]; exact .inl rfl, h1, h2⟩) fun a _ =>
      behaves_readBytes (fun h => regions_ok h (by simp [regions, sourceRegions]))
        (fun _ k h1 h2 => ⟨_, by simp [sourceRegions]; exact .inr rfl, h1, h2⟩) fun b _ =>
        ⟨fun t ht => by simp only [Except.ok.injEq] at ht; subst ht; exact .refl _ _ _, fun _ f hf => by simp at hf⟩)
    have := h.err hc f ?_
    · rcases this with h | ⟨k, -, h, -⟩
      · exact .inl h
      · exact h.elim
    · have hf := finish_eq_fault.1 hf
      rcases except_bind_error.1 hf with hf | ⟨a, ha, hf⟩
      · exact except_bind_error.2 (.inl hf)
      rcases except_bind_error.1 hf with hf | ⟨b, hb, hf⟩
      · exact except_bind_error.2 (.inr ⟨a, ha, except_bind_error.2 (.inl hf)⟩)
      · simp [pure, Except.pure] at hf
  refused _ := finish_ne_refused

theorem acts_cmovb (csel : CSel) (s : State) : Acts (.cmovb csel) s (execCmovb csel s) :=
  Behaves.acts <|
    behaves_readBytes (fun h => regions_ok h (by simp [regions, sourceRegions]))
      (fun _ k h1 h2 => ⟨(arg0Off s, arg2Len s), by simp [sourceRegions], h1, h2⟩) fun d hd =>
    behaves_readBytes (fun h => regions_ok h (by simp [regions, sourceRegions]))
      (fun _ k h1 h2 => ⟨(arg1Off s, arg2Len s), by simp [sourceRegions], h1, h2⟩) fun y hy => by
    have hl : (List.zipWith (maskSelect (condition csel s)) d y).length = arg2Len s := by
      rw [List.length_zipWith, readBytes_length hd, readBytes_length hy, Nat.min_self]
    exact behaves_writeBytes (fun h => by rw [hl]; exact regions_ok h (by simp [regions, sourceRegions]))
      fun k h1 h2 => ⟨(arg0Off s, arg2Len s), by simp [destRegions], h1, by rw [hl] at h2; exact h2⟩

theorem acts_keygen (s : State) : Acts .keygen s (execKeygen s) :=
  acts_withBytes (by simp [sourceRegions]) fun _ hc => acts_withHash rfl fun _ =>
    acts_whenSampled rfl fun x hx => by
      have hl := kemKeygen_length (readBytes_length hc) (pk := x.1) (sk := x.2) hx
      refine Behaves.acts (Behaves.bind (behaves_writeBytes (fun _ => ?_) fun k h1 h2 => ?_) fun t _ =>
        behaves_writeBytes (fun _ => ?_) fun k h1 h2 => ?_)
      · rw [hl.1]; decide
      · exact ⟨pkRegion, by simp [destRegions], h1, by rw [hl.1] at h2; exact h2⟩
      · rw [hl.2]; decide
      · exact ⟨skRegion, by simp [destRegions], h1, by rw [hl.2] at h2; exact h2⟩

theorem acts_encaps (s : State) : Acts .encaps s (execEncaps s) :=
  acts_withBytes (by simp [sourceRegions]) fun _ _ => acts_withBytes (by simp [sourceRegions]) fun _ _ =>
    acts_withHash rfl fun _ => acts_whenSampled rfl fun x hx => by
      have hl := kemEncaps_length (c := x.1) (k := x.2) hx
      refine Behaves.acts (Behaves.bind (behaves_writeBytes (fun _ => ?_) fun k h1 h2 => ?_) fun t _ =>
        behaves_writeBytes (fun _ => ?_) fun k h1 h2 => ?_)
      · rw [hl.1]; decide
      · exact ⟨ctRegion, by simp [destRegions], h1, by rw [hl.1] at h2; exact h2⟩
      · rw [hl.2]; decide
      · exact ⟨ssRegion, by simp [destRegions], h1, by rw [hl.2] at h2; exact h2⟩

theorem acts_decaps (s : State) : Acts .decaps s (execDecaps s) :=
  acts_withBytes (by simp [sourceRegions]) fun _ _ => acts_withBytes (by simp [sourceRegions]) fun _ _ =>
    acts_withHash rfl fun _ => acts_whenSampled rfl fun x hx => by
      have hl := kemDecaps_length hx
      refine Behaves.acts (behaves_writeBytes (fun _ => ?_) fun k h1 h2 => ?_)
      · rw [hl]; decide
      · exact ⟨ssRegion, by simp [destRegions], h1, by rw [hl] at h2; exact h2⟩

/-- Everything any command's meaning can answer, in every state. -/
theorem exec_acts (i : Instr) (s : State) : Acts i s (exec i s) := by
  cases i with
  | nop => exact acts_scalar (actsTo_results (.inl rfl) (.inl rfl) (.inl rfl))
  | montr => exact acts_scalar (actsTo_results (.inr ⟨by simp, _, rfl⟩) (.inl rfl) (.inl rfl))
  | barr => exact acts_scalar (actsTo_results (.inr ⟨by simp, _, rfl⟩) (.inl rfl) (.inl rfl))
  | fqmul => exact acts_scalar (actsTo_results (.inr ⟨by simp, _, rfl⟩) (.inl rfl) (.inl rfl))
  | bflyf => exact acts_scalar (actsTo_results (.inr ⟨by simp, _, rfl⟩) (.inr ⟨by simp, _, rfl⟩) (.inl rfl))
  | bflyi => exact acts_scalar (actsTo_results (.inr ⟨by simp, _, rfl⟩) (.inr ⟨by simp, _, rfl⟩) (.inl rfl))
  | basemul => exact acts_scalar (actsTo_results (.inr ⟨by simp, _, rfl⟩) (.inr ⟨by simp, _, rfl⟩) (.inl rfl))
  | cmov16 csel =>
    exact acts_scalar (actsTo_results (.inr ⟨by cases csel <;> simp, _, rfl⟩) (.inl rfl) (.inl rfl))
  | ntt v pd pa => exact acts_mapElem (fun a h => by simp [h]) (by simp [Instr.destRegs]) (by simp [Instr.sourceRegs])
  | intt v pd pa => exact acts_mapElem (fun a h => by simp [h]) (by simp [Instr.destRegs]) (by simp [Instr.sourceRegs])
  | preduce v pd pa =>
    exact acts_mapElem (fun a h => by simp [h]) (by simp [Instr.destRegs]) (by simp [Instr.sourceRegs])
  | ptomont v pd pa =>
    exact acts_mapElem (fun a h => by simp [h]) (by simp [Instr.destRegs]) (by simp [Instr.sourceRegs])
  | padd v pd pa pb =>
    exact acts_zipElem (fun a b h h' => by simp [h, h']) (by simp [Instr.destRegs]) (by simp [Instr.sourceRegs])
      (by simp [Instr.sourceRegs])
  | psub v pd pa pb =>
    exact acts_zipElem (fun a b h h' => by simp [h, h']) (by simp [Instr.destRegs]) (by simp [Instr.sourceRegs])
      (by simp [Instr.sourceRegs])
  | pbasemul v pd pa pb =>
    exact acts_zipElem (fun a b h h' => by simp) (by simp [Instr.destRegs]) (by simp [Instr.sourceRegs])
      (by simp [Instr.sourceRegs])
  | pcmov v pd pa csel =>
    exact acts_zipElem (fun a b h h' => by simp [h, h']) (by simp [Instr.destRegs]) (by simp [Instr.sourceRegs])
      (by simp [Instr.sourceRegs])
  | pvacc pd pa pb => exact acts_pvacc pd pa pb s
  | tobytes v pa =>
    exact acts_packElem (fun a => by simp) (by simp [Instr.sourceRegs]) (by simp [destRegions])
  | compress10 v pa =>
    exact acts_packElem (fun a => by simp) (by simp [Instr.sourceRegs]) (by simp [destRegions])
  | compress4 v pa =>
    exact acts_packElem (fun a => by simp) (by simp [Instr.sourceRegs]) (by simp [destRegions])
  | tomsg pa =>
    exact acts_packElem (fun a => by simp) (by simp [Instr.sourceRegs, vSpan]) (by simp [destRegions, vSpan])
  | frombytes v pd =>
    exact acts_unpackElem (fun a => by simp) (by simp [sourceRegions]) (by simp [Instr.destRegs])
  | decompress10 v pd =>
    exact acts_unpackElem (fun a => by simp) (by simp [sourceRegions]) (by simp [Instr.destRegs])
  | decompress4 v pd =>
    exact acts_unpackElem (fun a => by simp) (by simp [sourceRegions]) (by simp [Instr.destRegs])
  | cbd2 v pd =>
    exact acts_unpackElem (fun a => by simp) (by simp [sourceRegions]) (by simp [Instr.destRegs])
  | frommsg pd =>
    exact acts_unpackElem (fun a => by simp) (by simp [sourceRegions, vSpan]) (by simp [Instr.destRegs, vSpan])
  | getnoise v pd nonce => exact acts_getnoise v pd nonce s
  | genentry pd => exact acts_genentry pd s
  | genmatrix pd t => exact acts_genmatrix pd t s
  | verify => exact acts_verify s
  | cmovb csel => exact acts_cmovb csel s
  | keygen => exact acts_keygen s
  | encaps => exact acts_encaps s
  | decaps => exact acts_decaps s

end Sys2Proof.Machine
end

