-- ==== Sys2Proof/Laws/PerInstr.lean ====
section
/-! SUPPORT. What holds of every command as syntax, one lemma per constructor: its word has its OP of R130 in bits 7:0 and
its V bit in bit 23 (R121). -/

namespace Sys2Proof.Laws.EncodesOpcode

/-- The word of a command carries the command's opcode and V bit (R121, R130). -/
def Statement (i : Instr) : Prop := opField (encode i) = i.opcode ∧ vField (encode i) = i.vBit

/-- The OP field of an assembled word (R121). -/
theorem op_word (imm : BitVec 8) (v : Bool) (pb pa pd : PReg) (op : BitVec 8) :
    opField (word imm v pb pa pd op) = op := by
  ext i hi
  simp only [opField, word, BitVec.getElem_extractLsb', Nat.zero_add, BitVec.getLsbD_append]
  simp only [hi, BitVec.getLsbD_eq_getElem]
  split_ifs <;> first | rfl | omega

/-- The V bit of an assembled word (R121). -/
theorem v_word (imm : BitVec 8) (v : Bool) (pb pa pd : PReg) (op : BitVec 8) :
    vField (word imm v pb pa pd op) = v := by
  simp only [vField, word, BitVec.getLsbD_append]
  simp

theorem nop : Statement .nop := ⟨op_word .., v_word ..⟩
theorem montr : Statement .montr := ⟨op_word .., v_word ..⟩
theorem barr : Statement .barr := ⟨op_word .., v_word ..⟩
theorem fqmul : Statement .fqmul := ⟨op_word .., v_word ..⟩
theorem bflyf : Statement .bflyf := ⟨op_word .., v_word ..⟩
theorem bflyi : Statement .bflyi := ⟨op_word .., v_word ..⟩
theorem basemul : Statement .basemul := ⟨op_word .., v_word ..⟩
theorem ntt (v : Bool) (pd : PReg) (pa : PReg) : Statement (.ntt v pd pa) := ⟨op_word .., v_word ..⟩
theorem intt (v : Bool) (pd : PReg) (pa : PReg) : Statement (.intt v pd pa) := ⟨op_word .., v_word ..⟩
theorem padd (v : Bool) (pd : PReg) (pa : PReg) (pb : PReg) : Statement (.padd v pd pa pb) := ⟨op_word .., v_word ..⟩
theorem psub (v : Bool) (pd : PReg) (pa : PReg) (pb : PReg) : Statement (.psub v pd pa pb) := ⟨op_word .., v_word ..⟩
theorem preduce (v : Bool) (pd : PReg) (pa : PReg) : Statement (.preduce v pd pa) := ⟨op_word .., v_word ..⟩
theorem ptomont (v : Bool) (pd : PReg) (pa : PReg) : Statement (.ptomont v pd pa) := ⟨op_word .., v_word ..⟩
theorem pbasemul (v : Bool) (pd : PReg) (pa : PReg) (pb : PReg) : Statement (.pbasemul v pd pa pb) := ⟨op_word .., v_word ..⟩
theorem pvacc (pd : PReg) (pa : PReg) (pb : PReg) : Statement (.pvacc pd pa pb) := ⟨op_word .., v_word ..⟩
theorem tobytes (v : Bool) (r : PReg) : Statement (.tobytes v r) := ⟨op_word .., v_word ..⟩
theorem frombytes (v : Bool) (r : PReg) : Statement (.frombytes v r) := ⟨op_word .., v_word ..⟩
theorem compress10 (v : Bool) (r : PReg) : Statement (.compress10 v r) := ⟨op_word .., v_word ..⟩
theorem decompress10 (v : Bool) (r : PReg) : Statement (.decompress10 v r) := ⟨op_word .., v_word ..⟩
theorem compress4 (v : Bool) (r : PReg) : Statement (.compress4 v r) := ⟨op_word .., v_word ..⟩
theorem decompress4 (v : Bool) (r : PReg) : Statement (.decompress4 v r) := ⟨op_word .., v_word ..⟩
theorem frommsg (r : PReg) : Statement (.frommsg r) := ⟨op_word .., v_word ..⟩
theorem tomsg (r : PReg) : Statement (.tomsg r) := ⟨op_word .., v_word ..⟩
theorem cbd2 (v : Bool) (r : PReg) : Statement (.cbd2 v r) := ⟨op_word .., v_word ..⟩
theorem getnoise (v : Bool) (pd : PReg) (n : BitVec 8) : Statement (.getnoise v pd n) := ⟨op_word .., v_word ..⟩
theorem genentry (r : PReg) : Statement (.genentry r) := ⟨op_word .., v_word ..⟩
theorem genmatrix (r : PReg) (t : Bool) : Statement (.genmatrix r t) := ⟨op_word .., v_word ..⟩
theorem verify : Statement .verify := ⟨op_word .., v_word ..⟩
theorem cmovb (csel : CSel) : Statement (.cmovb csel) := ⟨op_word .., v_word ..⟩
theorem cmov16 (csel : CSel) : Statement (.cmov16 csel) := ⟨op_word .., v_word ..⟩
theorem pcmov (v : Bool) (pd : PReg) (pa : PReg) (csel : CSel) : Statement (.pcmov v pd pa csel) := ⟨op_word .., v_word ..⟩
theorem keygen : Statement .keygen := ⟨op_word .., v_word ..⟩
theorem encaps : Statement .encaps := ⟨op_word .., v_word ..⟩
theorem decaps : Statement .decaps := ⟨op_word .., v_word ..⟩

end Sys2Proof.Laws.EncodesOpcode
end

