-- ==== Sys2Proof/Laws/Reset.lean ====
section
/-! SUPPORT. What an abort leaves, cell by cell (R463), that it keeps the canonical forms, and that reset memory has them. -/

namespace Sys2Proof.Machine

/-- Erasing a list of spans: a cell of one of them is undefined after, every other cell is as before. -/
theorem readCell_foldl_erase {α : Type} (lo len : Nat × Nat → Nat) (rs : List (Nat × Nat)) (m : List (Nat × α))
    (k : Nat) :
    readCell (rs.foldl (fun m r => eraseCells m (lo r) (len r)) m) k =
      if rs.any (fun r => lo r ≤ k && k < lo r + len r) then none else readCell m k := by
  induction rs generalizing m with
  | nil => rfl
  | cons r rs ih =>
    rw [List.foldl_cons, ih, readCell_eraseCells]
    rw [List.any_cons]
    by_cases hr : (lo r ≤ k && k < lo r + len r) = true
    · have hr' : lo r ≤ k ∧ k < lo r + len r := by simpa using hr
      simp [hr']
    · have hr' : ¬ (lo r ≤ k ∧ k < lo r + len r) := by simpa using hr
      rw [if_neg hr', Bool.eq_false_iff.2 hr, Bool.false_or]

theorem readCell_undefineDest_preg (i : Instr) (s : State) (k : Nat) :
    readCell (undefineDest i s).preg k = if inDestRegs i k then none else readCell s.preg k := by
  simp only [undefineDest, inDestRegs, Nat.mul_add]
  exact readCell_foldl_erase (fun r => 256 * r.1) (fun r => 256 * r.2) i.destRegs s.preg k

theorem readCell_undefineDest_bmem (i : Instr) (s : State) (a : Nat) :
    readCell (undefineDest i s).bmem a = if inDestRegions i s a then none else readCell s.bmem a :=
  readCell_foldl_erase (fun r => r.1) (fun r => r.2) (destRegions i s) s.bmem a

theorem wf_foldl_erase {α : Type} {b : Nat} (lo len : Nat × Nat → Nat) (rs : List (Nat × Nat)) {m : List (Nat × α)}
    (h : CellsWf b m) : CellsWf b (rs.foldl (fun m r => eraseCells m (lo r) (len r)) m) := by
  induction rs generalizing m with
  | nil => exact h
  | cons r rs ih => exact ih (cellsWf_eraseCells h _ _)

theorem wf_undefineDest_preg {i : Instr} {s : State} (h : PolyFile.wf s.preg) : PolyFile.wf (undefineDest i s).preg :=
  wf_foldl_erase (fun r => 256 * r.1) (fun r => 256 * r.2) _ h

theorem wf_undefineDest_bmem {i : Instr} {s : State} (h : Memory.wf s.bmem) : Memory.wf (undefineDest i s).bmem :=
  wf_foldl_erase (fun r => r.1) (fun r => r.2) _ h

/-- The host's word writes keep the canonical forms (R84, R86). -/
theorem wf_bmemWrite {s : State} {w : Nat} (d : Word) (hw : w < 2048) (h : Memory.wf s.bmem) :
    Memory.wf (bmemWrite w d s).bmem :=
  cellsWf_writeCells h (by show 4 * w + 4 ≤ 8192; omega)

theorem wf_pregWrite {s : State} {w : Nat} (d : Word) (hw : w < 4096) (h : PolyFile.wf s.preg) :
    PolyFile.wf (pregWrite w d s).preg :=
  cellsWf_writeCells h (by show 256 * (w / 128) + 2 * (w % 128) + 2 ≤ 32 * 256; omega)

theorem reset_bmem_wf : Memory.wf State.reset.bmem := cellsWf_nil _

theorem reset_preg_wf : PolyFile.wf State.reset.preg := cellsWf_nil _

/-- A sign-extended `s16` is the sign extension of its own low half (R40). -/
theorem sext32_lo16_sext32 (c : Coef) : sext32 (lo16 (sext32 c)) = sext32 c := by
  congr 1
  ext i hi
  simp only [lo16, sext32, BitVec.getElem_extractLsb', Nat.zero_add]
  rw [BitVec.getLsbD_eq_getElem (by omega), BitVec.getElem_signExtend, dif_pos hi]

end Sys2Proof.Machine
end

