-- ==== Sys2Proof/Tests/Slice0.lean ====
section
/-! SUPPORT. Tests of the model against values the spec gives (spec/95_test_vectors.md, the section in each comment),
and, for every statement with hypotheses, a state and operands that meet them (the `witness_` theorems). -/

namespace Sys2Proof.Tests

open Sys2Proof.Machine

set_option maxRecDepth 100000
set_option Elab.async false

/-! Small states. -/

/-- P[n] holds p. -/
def polyAt (n : Nat) (p : Poly) (s : State) : State := { s with preg := writeCells s.preg (256 * n) p }

/-- The bytes bs stand at a. -/
def bytesAt (a : Nat) (bs : List Byte) (s : State) : State := { s with bmem := writeCells s.bmem a bs }

/-- A polynomial with every coefficient c. -/
def allCoef (c : Int) : Poly := List.replicate 256 (wrap16 c)

/-- Zero bytes. -/
def zeros (n : Nat) : List Byte := List.replicate n 0

/-- A state with command word w pending. -/
def pending (w : Word) (s : State) : State := { s with cmd := w, lastop := opField w, pend := some w }

/-- The state a step answers, if it answers one. -/
def nextOf : Result → Option State
  | .next s => some s
  | .fault _ => none
  | .refused _ => none

theorem readPoly_polyAt (n : Nat) (p : Poly) (s : State) (hn : n < 32) (hp : p.length = 256) :
    readPoly (polyAt n p s) n = .ok p :=
  readPoly_writePoly_self hp (writePoly_ok_iff.2 ⟨hn, rfl⟩)

theorem readBytes_bytesAt (a : Nat) (bs : List Byte) (s : State) (h : a + bs.length ≤ 8192) :
    readBytes (bytesAt a bs s) a bs.length = .ok bs :=
  readBytes_writeBytes_self (writeBytes_ok_iff.2 ⟨h, rfl⟩)

theorem readPoly_polyAt_other (n m : Nat) (p : Poly) (s : State) (hp : p.length = 256) (h : m ≠ n) :
    readPoly (polyAt n p s) m = readPoly s m := by
  have hc : readCells (polyAt n p s).preg (256 * m + 0) 256 = readCells s.preg (256 * m + 0) 256 :=
    readCells_congr fun j hj => readCell_writeCells_outside _ _ _ _ (by rw [hp]; omega)
  simp only [readPoly, readCoeffs, hc]

theorem readBytes_bytesAt_other (a b len : Nat) (bs : List Byte) (s : State) (h : b + len ≤ a ∨ a + bs.length ≤ b) :
    readBytes (bytesAt a bs s) b len = readBytes s b len := by
  have hc : readCells (bytesAt a bs s).bmem b len = readCells s.bmem b len :=
    readCells_congr fun j hj => readCell_writeCells_outside _ _ _ _ (by omega)
  simp only [readBytes, hc]

/-! Well-formedness (R202 check 2): an ill-formed term for each span, and the boundary terms that pass. -/

theorem test_wf_refuses_spans_past_p31 :
    [Instr.ntt true 30 0, .ntt true 0 30, .padd true 0 0 30, .pvacc 0 30 0, .pvacc 0 0 30, .genmatrix 24 false,
      .tobytes true 30, .frombytes true 30, .getnoise true 30 0, .pcmov true 0 30 .f1].all (fun i => !i.wf) = true := by
  decide

theorem test_wf_admits_the_last_registers :
    [Instr.ntt true 29 29, .ntt false 31 31, .padd true 29 29 29, .pvacc 31 29 29, .genmatrix 23 true,
      .tobytes true 29, .frommsg 31, .tomsg 31, .genentry 31, .pcmov true 29 29 .f0].all (fun i => i.wf) = true := by
  decide

/-! Decoding: every constructor by a word written out as IMM8, V, PB, PA, PD, OP (R121, R130). -/

theorem test_decode_control_and_field :
    decode 0b11111111_0_00000_00000_11111_00000000#32 = .ok .nop ∧
    decode 0b00000000_0_00000_00000_00000_00000001#32 = .ok .montr ∧
    decode 0b00000000_0_00000_00000_00000_00000010#32 = .ok .barr ∧
    decode 0b00000000_0_00000_00000_00000_00000011#32 = .ok .fqmul ∧
    decode 0b00000000_0_00000_00000_00000_00000100#32 = .ok .bflyf ∧
    decode 0b00000000_0_00000_00000_00000_00000101#32 = .ok .bflyi ∧
    decode 0b00000000_0_00000_00000_00000_00000110#32 = .ok .basemul := by
  refine ⟨?_, ?_, ?_, ?_, ?_, ?_, ?_⟩ <;> decide

theorem test_decode_ntt_and_poly :
    decode 0b00000000_0_00000_00000_00010_00010000#32 = .ok (.ntt false 2 0) ∧
    decode 0b00000000_1_00000_00100_00100_00010001#32 = .ok (.intt true 4 4) ∧
    decode 0b00000000_1_00011_00000_11110_00010010#32 = .ok (.padd true 30 0 3) ∧
    decode 0b00000000_0_00001_00010_00011_00010011#32 = .ok (.psub false 3 2 1) ∧
    decode 0b00000000_0_00000_00010_00010_00010100#32 = .ok (.preduce false 2 2) ∧
    decode 0b00000000_0_00000_11111_00000_00010101#32 = .ok (.ptomont false 0 31) ∧
    decode 0b00000000_0_00011_00010_00100_00010110#32 = .ok (.pbasemul false 4 2 3) ∧
    decode 0b00000000_0_11101_11101_11111_00010111#32 = .ok (.pvacc 31 29 29) := by
  refine ⟨?_, ?_, ?_, ?_, ?_, ?_, ?_, ?_⟩ <;> decide

theorem test_decode_serial :
    decode 0b00000000_1_00000_11110_00000_00100000#32 = .ok (.tobytes true 30) ∧
    decode 0b00000000_0_00000_00000_00101_00100001#32 = .ok (.frombytes false 5) ∧
    decode 0b00000000_0_00000_00110_00000_00100010#32 = .ok (.compress10 false 6) ∧
    decode 0b00000000_1_00000_00000_00111_00100011#32 = .ok (.decompress10 true 7) ∧
    decode 0b00000000_0_00000_01000_00000_00100100#32 = .ok (.compress4 false 8) ∧
    decode 0b00000000_0_00000_00000_01001_00100101#32 = .ok (.decompress4 false 9) ∧
    decode 0b00000000_0_00000_00000_01010_00100110#32 = .ok (.frommsg 10) ∧
    decode 0b00000000_0_00000_01011_00000_00100111#32 = .ok (.tomsg 11) := by
  refine ⟨?_, ?_, ?_, ?_, ?_, ?_, ?_, ?_⟩ <;> decide

theorem test_decode_sampling_ct_and_kem :
    decode 0b00000000_1_00000_00000_01100_00110000#32 = .ok (.cbd2 true 12) ∧
    decode 0b00000011_1_00000_00000_00011_00110001#32 = .ok (.getnoise true 3 3) ∧
    decode 0b00000000_0_00000_00000_01101_00110010#32 = .ok (.genentry 13) ∧
    decode 0b00000001_0_00000_00000_10111_00110011#32 = .ok (.genmatrix 23 true) ∧
    decode 0b00000000_0_00000_00000_00000_01000000#32 = .ok .verify ∧
    decode 0b00000001_0_00000_00000_00000_01000001#32 = .ok (.cmovb .f0) ∧
    decode 0b00000000_0_00000_00000_00000_01000010#32 = .ok (.cmov16 .f1) ∧
    decode 0b00000001_1_00000_00011_00000_01000011#32 = .ok (.pcmov true 0 3 .f0) ∧
    decode 0b00000000_0_00000_00000_00000_01010000#32 = .ok .keygen ∧
    decode 0b00000000_0_00000_00000_00000_01010001#32 = .ok .encaps ∧
    decode 0b00000000_0_00000_00000_00000_01010010#32 = .ok .decaps := by
  refine ⟨?_, ?_, ?_, ?_, ?_, ?_, ?_, ?_, ?_, ?_, ?_⟩ <;> decide

/-- R132: 222 of the 256 OP values are reserved. -/
theorem test_decode_refuses_the_reserved_ops :
    ((List.range 256).filter fun op => !legal (BitVec.ofNat 32 op)).length = 222 ∧
    ((List.range 256).filter fun op => (decode (BitVec.ofNat 32 op)).toOption.isNone).length = 222 := by
  decide +kernel

/-- R130's "V ok" column and R131: 18 opcodes lose their legality with V = 1, three with CSEL[1] = 1. -/
theorem test_decode_refuses_v_and_csel :
    ((List.range 256).filter fun op => legal (BitVec.ofNat 32 op) && !legal (BitVec.ofNat 32 (op + 2 ^ 23))).length = 18 ∧
    ((List.range 256).filter fun op => legal (BitVec.ofNat 32 op) && !legal (BitVec.ofNat 32 (op + 2 ^ 25))) =
      [0x41, 0x42, 0x43] := by
  decide +kernel

/-! Check(w), section 2.1. -/

theorem test_check_of_register_ranges :
    check 0x00800003 State.reset = .illegalCmd ∧ check 0x03000043 State.reset = .illegalCmd ∧
    check 0x01806043 State.reset = .ok ∧ check 0x00801E10 State.reset = .pregRange ∧
    check 0x0083BD10 State.reset = .ok ∧ check 0x0077BF17 State.reset = .ok ∧
    check 0x0003C017 State.reset = .pregRange ∧ check 0x00001733 State.reset = .ok ∧
    check 0x00001833 State.reset = .pregRange ∧ check 0x00801F03 State.reset = .illegalCmd := by
  refine ⟨?_, ?_, ?_, ?_, ?_, ?_, ?_, ?_, ?_, ?_⟩ <;> decide

theorem test_check_of_byte_ranges :
    check 0x00000020 { State.reset with arg0 := 0x1E80 } = .ok ∧
    check 0x00000020 { State.reset with arg0 := 0x1E81 } = .bmemRange ∧
    check 0x00800020 { State.reset with arg0 := 0x1B81 } = .bmemRange ∧
    check 0x00800031 { State.reset with arg0 := 0x1FE0 } = .ok ∧
    check 0x00000040 { State.reset with arg1 := 0x1FFF, arg2 := 2 } = .bmemRange ∧
    check 0x00000041 { State.reset with arg2 := 0xFFFFFFFF } = .bmemRange ∧
    check 0x00000041 { State.reset with arg0 := 0x1FFF, arg1 := 0x2000 } = .ok ∧
    check 0x0083C020 { State.reset with arg0 := 0x1F00 } = .pregRange ∧
    check 0x00000050 { State.reset with arg0 := 0xFFFFFFFF } = .ok := by
  refine ⟨?_, ?_, ?_, ?_, ?_, ?_, ?_, ?_, ?_⟩ <;> decide

/-! STATUS around an issue, section 2.1; one step each. -/

theorem test_status_after_accept :
    (nextOf (step { State.reset with events := [.write 0x010 0x00000003] })).map (csrRead 3) = some 0x00030001 := by
  decide

theorem test_status_after_completion :
    (nextOf (step (pending 0x00000003 State.reset))).map (csrRead 3) = some 0x00030002 := by
  decide

theorem test_status_after_rejection :
    (nextOf (step { State.reset with done := true, lastop := 3, events := [.write 0x010 0x000000FF] })).map (csrRead 3) =
      some 0x00FF0106 := by
  decide

theorem test_status_after_overrun :
    (nextOf (step { pending 0x00000001 State.reset with
      errcode := .bmemRange, events := [.write 0x010 0x00000000] })).map (csrRead 3) = some 0x00010309 := by
  decide

/-! The scalar commands, section 2.2: SR0 and SR1 after exec. -/

/-- SR0 and SR1 after a scalar command on (SA, SB, SZ). -/
def scalar (i : Instr) (a b z : Int) : Option (Int × Int) :=
  (nextOf (exec i { State.reset with
    sa := BitVec.ofInt 32 a, sb := BitVec.ofInt 32 b, sz := BitVec.ofInt 32 z })).map
    fun s => (s.sr0.toInt, s.sr1.toInt)

theorem test_montr : scalar .montr 0x0D010000 0 0 = some (3329, 0) ∧ scalar .montr 0x7FFFFFFF 0 0 = some (32599, 0) := by
  decide

theorem test_barr : scalar .barr (-1) 0 0 = some (3328, 0) ∧ scalar .barr (-32768) 0 0 = some (522, 0) := by decide

theorem test_fqmul :
    scalar .fqmul (-32768) (-32768) 0 = some (16384, 0) ∧ scalar .fqmul 2285 1000 0 = some (1000, 0) := by
  decide

theorem test_bflyf :
    scalar .bflyf 100 200 (-758) = some (-316, 516) ∧ scalar .bflyf 32767 32767 (-758) = some (-31548, 31546) := by
  decide

theorem test_bflyi :
    scalar .bflyi 100 200 (-758) = some (300, -208) ∧ scalar .bflyi 32767 1 2285 = some (522, -2805) := by
  decide

theorem test_basemul :
    scalar .basemul (2 * 65536 + 1) (4 * 65536 + 3) (-1103) = some (188, 1690) ∧
    scalar .basemul (3328 * 65536 + 3328) (3328 * 65536 + 3328) 1664 = some (869, 338) := by
  decide

theorem test_cmov16 :
    (nextOf (exec (.cmov16 .f1) { State.reset with sa := 5, sb := 0xFFFF8000, ctflag := true })).map State.sr0 =
      some 0xFFFF8000 ∧
    (nextOf (exec (.cmov16 .f0) { State.reset with sa := 5, sb := 0xFFFF8000, ctflag := true })).map State.sr0 =
      some 5 := by
  decide

/-! The transforms: the schedules of R243 and R244 (896 butterflies; the twiddle index of stage 0 and of the last blocks). -/

theorem test_ntt_schedule :
    nttSchedule.length = 896 ∧ nttSchedule.take 1 = [⟨1, 0, 128⟩] ∧
    (nttSchedule.drop 128).take 1 = [⟨2, 0, 64⟩] ∧ (nttSchedule.drop 192).take 1 = [⟨3, 128, 192⟩] ∧
    nttSchedule.drop 895 = [⟨127, 253, 255⟩] := by
  decide +kernel

theorem test_intt_schedule :
    inttSchedule.length = 896 ∧ inttSchedule.take 2 = [⟨127, 0, 2⟩, ⟨127, 1, 3⟩] ∧
    (inttSchedule.drop 128).take 1 = [⟨63, 0, 4⟩] ∧ inttSchedule.drop 895 = [⟨1, 127, 255⟩] := by
  decide +kernel

/-! Polynomial arithmetic, section 2.4: the functions on short heads. -/

theorem test_poly_add_and_sub_wrap :
    polyAdd [0, -1, 2, 32767] [0, 13, 26, 1] = [0, 12, 28, -32768] ∧ polySub [0, -1, 2, -32768] [0, 13, 26, 1] =
      [0, -14, -24, 32767] := by
  decide

theorem test_poly_reduce :
    polyReduce [-1, 3329, -32768, 32767, 6658, 0, 3328, -3328] = [3328, 0, 522, 2806, 0, 0, 3328, 1] := by
  decide

theorem test_poly_tomont :
    polyToMont [1, 0, -1, 3328, 169, 32767, -32768, 1665] = [-1044, 0, 1044, 1044, 1, 56, 988, -522] := by
  decide

theorem test_poly_basemul :
    baseMulQuad (allCoef 1) (allCoef 1) 0 ++ baseMulQuad (allCoef 1) (allCoef 1) 1 =
      [-287, 338, 625, 338, 718, 338, -380, 338] := by
  decide +kernel

theorem test_pvacc :
    (polyVecAcc ⟨allCoef 1, allCoef 1, allCoef 1⟩ ⟨allCoef 1, allCoef 1, allCoef 1⟩).take 8 =
      [2468, 1014, 1875, 1014, 2154, 1014, 2189, 1014] := by
  decide +kernel

theorem test_pcmov :
    List.zipWith (maskSelect (condition .f0 State.reset)) [1, 2] [3, (-4 : Coef)] = [3, -4] ∧
    List.zipWith (maskSelect (condition .f1 State.reset)) [1, 2] [3, (-4 : Coef)] = [1, 2] := by
  decide

/-! Codings, section 2.5: the functions on their heads. -/

theorem test_tobytes :
    (enc12 [0, 1, 3328, -1, 4095, -3329, 2047, 2048]).take 12 =
      [0x00, 0x10, 0x00, 0x00, 0x0d, 0xd0, 0xff, 0x0f, 0x00, 0xff, 0x07, 0x80] := by
  decide +kernel

theorem test_frombytes : (dec12 [0x01, 0x23, 0x45, 0xff, 0xff, 0xff]).take 4 = [769, 1106, 4095, 4095] := by
  decide +kernel

theorem test_compress10 :
    (comp10 [0, 1, 1664, 1665, 3328, -1, 832, 833]).take 10 =
      [0x00, 0x00, 0x00, 0x20, 0x80, 0x00, 0x00, 0x00, 0x10, 0x40] := by
  decide +kernel

theorem test_compress4 :
    (comp4 [0, 1, 1664, 1665, 3328, -1, 832, 833]).take 4 = [0x00, 0x88, 0x00, 0x44] := by
  decide +kernel

theorem test_decompress10 :
    (decomp10 [0xff, 0xff, 0xff, 0xff, 0xff]).take 4 = [3326, 3326, 3326, 3326] ∧
    [0, 1, 511, 512, 1023].map (decompress 10) = [0, 3, 1661, 1665, 3326] := by
  decide +kernel

theorem test_decompress4 :
    (decomp4 [0x10, 0x32, 0x54, 0x76, 0x98, 0xba, 0xdc, 0xfe]).take 16 =
      [0, 208, 416, 624, 832, 1040, 1248, 1456, 1665, 1873, 2081, 2289, 2497, 2705, 2913, 3121] := by
  decide +kernel

theorem test_frommsg :
    (fromMsg (0x01 :: 0x80 :: zeros 30)).take 16 = [1665, 0, 0, 0, 0, 0, 0, 0, 0, 0, 0, 0, 0, 0, 0, 1665] := by
  decide +kernel

theorem test_tomsg :
    (toMsg [0, 832, 2497, 3328, 833, 1664, 2496, 0]).take 1 = [0b01110000] := by
  decide +kernel

/-! Sampling, section 2.6. -/

theorem test_cbd2 :
    (cbd2 [0x01, 0x23, 0x45, 0x67]).take 8 = [1, 0, 2, 1, 0, -1, 1, 0] ∧ (cbd2 [0x0c]).take 2 = [-2, 0] := by
  decide +kernel

/-- GETNOISE with N = 255 and a zero seed: the head of PRF's polynomial. -/
theorem test_getnoise : (cbd2 (prf hashFns (zeros 32) 255)).take 8 = [2, 1, -1, 2, 0, -1, 1, -1] := by
  decide +kernel

/-- GENENTRY with a zero seed and ARG1 = 0: three blocks suffice, and the head of the entry. -/
theorem test_genentry :
    (sampleNtt hashFns 3 (zeros 34)).map (fun p => p.take 8) =
      some [2944, 3017, 340, 1184, 3243, 1708, 2458, 2285] := by
  decide +kernel

/-- GENMATRIX reads row and column in the order of T (R344). -/
theorem test_genmatrix_message :
    entryMessage [7] false 1 2 = [7, 2, 1] ∧ entryMessage [7] true 1 2 = [7, 1, 2] := by
  decide

/-! VERIFY and CMOVB, section 2.7; SHA3-256 of the empty string (FIPS 202) and the KEM regions (R47, R48). -/

theorem test_verify : verifyBytes [1, 1] [0, 0] = true ∧ verifyBytes [] [] = false ∧ verifyBytes [5, 6] [5, 6] = false := by
  decide

/-- Overlapping regions: the source is copied as it was before the command. -/
theorem test_cmovb_overlap :
    (nextOf (exec (.cmovb .f1) (bytesAt 0 [1, 2, 3, 4] { State.reset with
      arg0 := 1, arg1 := 0, arg2 := 3, ctflag := true }))).map State.bmem = some [(0, 1), (1, 1), (2, 2), (3, 3)] := by
  decide

theorem test_sha3_256 : (hashH hashFns []).take 4 = [0xa7, 0xff, 0xc6, 0xf8] := by decide +kernel

/-- The SK region follows PK, CT follows SK, SS follows CT, COINS follows SS. -/
theorem test_kem_regions :
    [pkRegion, skRegion, ctRegion, ssRegion, coinsRegion] =
      [(0x0000, 1184), (0x04A0, 2400), (0x0E00, 1088), (0x1240, 32), (0x1260, 64)] := by
  decide

/-! Bus, reset and faults. -/

/-- Program 2 step 2: a PREG word write sets coefficients 0 and 1 of P0. -/
theorem test_preg_write :
    (nextOf (step { State.reset with events := [.write 0x8000 0x00010000] })).map State.preg = some [(0, 0), (1, 1)] := by
  decide

theorem test_bmem_write_and_erase :
    (nextOf (step { State.reset with events := [.write 0x2004 0x44332211] })).map State.bmem =
      some [(4, 0x11), (5, 0x22), (6, 0x33), (7, 0x44)] ∧
    (nextOf (step { bytesAt 0 (zeros 33) (pending 0x52 State.reset) with
      events := [.write 0x008 3] })).map (fun s => (s.ie, s.bmem.length, s.pend)) = some (true, 33, none) := by
  decide

/-- R463: aborting TOMSG at ARG0 = 1 undefines bytes 1 to 32. -/
theorem test_abort_undefines_the_destination :
    (nextOf (step { bytesAt 0 (zeros 34) (pending 0x27 { State.reset with arg0 := 1 }) with
      events := [.write 0x008 1] })).map State.bmem = some [(0, 0), (33, 0)] := by
  decide

/-- U1: the first step of a command with an undefined source stops by name. -/
theorem test_undefined_source_faults :
    step (State.reset.withFetchWord 32 0x00000210) = .fault (.undefinedCoeff 0 0) ∧
    step { State.reset with events := [.read 0x3FFC] } = .fault (.undefinedByte 8188) :=
  ⟨rfl, rfl⟩

theorem test_zrom_read :
    (nextOf (step { State.reset with events := [.read 0x01FC] })).map State.resp =
      some (some ⟨some 0x065C05F2, false⟩) := by
  decide +kernel

theorem test_fetch_word_runs_first :
    (nextOf (step (State.reset.withFetchWord 32 0x00000003))).map (fun s => (s.done, s.pend)) = some (true, none) := by
  decide

/-! ### Witnesses: the hypotheses of the statements can be met -/

/-- IgnoredFieldsHaveNoEffect: NOP with its ignored fields set. -/
theorem witness_ignored_fields : decode 0xFF7FFF00 = .ok .nop := by decide

/-- CmdWriteIssuesTheWord: both clauses. -/
theorem witness_cmd_write :
    let s := { State.reset with events := [.write 0x010 0x00000003] }
    s.events = .write 0x010 0x00000003 :: [] ∧ s.rstN = true ∧ s.pend = none ∧ check 0x00000003 s = .ok ∧
      check 0x000000FF s ≠ .ok := by
  decide

/-- CmdWriteWhileBusyIsAnOverrun. -/
theorem witness_overrun :
    let s := { pending 0x00000001 State.reset with events := [.write 0x010 0] }
    s.events = .write 0x010 0 :: [] ∧ s.rstN = true ∧ s.pend ≠ none := by
  decide

/-- CheckReturnsTheFirstFailingCode: each clause at the edge of its range (P29 and P30 with V; ARG0 = 0x1E80 and 0x1E81). -/
theorem witness_check_clauses :
    legal 0x000000FF = false ∧
    (∃ i, decode 0x00801E10 = .ok i ∧ ∃ r ∈ i.usedRegs, r.1 + r.2 - 1 > 31) ∧
    (∃ i, decode 0x00000020 = .ok i ∧ (∀ r ∈ i.usedRegs, r.1 + r.2 - 1 ≤ 31) ∧
      ∃ r ∈ regions i { State.reset with arg0 := 0x1E81 }, r.1 + r.2 > 8192) ∧
    (∃ i, decode 0x00000020 = .ok i ∧ (∀ r ∈ i.usedRegs, r.1 + r.2 - 1 ≤ 31) ∧
      ∀ r ∈ regions i { State.reset with arg0 := 0x1E80 }, r.1 + r.2 ≤ 8192) :=
  ⟨by decide, ⟨.ntt true 30 0, by decide, by decide⟩, ⟨.tobytes false 0, by decide, by decide, by decide⟩,
    ⟨.tobytes false 0, by decide, by decide, by decide⟩⟩

/-- StepRunsThePendingCommand: both clauses. -/
theorem witness_step_runs :
    (let s := pending 0 State.reset
     s.rstN = true ∧ s.pend = some 0 ∧ decode 0 = .ok .nop ∧ s.events = []) ∧
    (let s := { pending 0 State.reset with events := [.engine .silent] }
     s.rstN = true ∧ s.pend = some 0 ∧ s.events = .engine .silent :: []) := by
  decide

/-- IdleBlockKeepsItsState: both causes, both clauses. -/
theorem witness_idle :
    State.reset.pend = none ∧ State.reset.events = [] ∧
    (let s := { pending 0 State.reset with rstN := false, events := [.engine .silent] }
     s.rstN = false ∧ s.events = .engine .silent :: []) := by
  decide

/-- MontrReducesSa: the two ranges, at their ends. -/
theorem witness_montr_ranges :
    -2038333440 ≤ (2038333440#32).toInt ∧ (2038333440#32).toInt ≤ 2038333440 ∧
    -109084672 < (109084671#32).toInt ∧ (109084671#32).toInt < 109084672 := by
  decide

/-- TransformsWriteTheirDestination and PreduceAndPtomontReduceEveryCoefficient: P31 holds a polynomial. -/
theorem witness_one_source : readPoly (polyAt 31 (allCoef 1) State.reset) (31 : PReg).toNat = .ok (allCoef 1) :=
  readPoly_polyAt 31 _ _ (by decide) (by decide +kernel)

/-- Six registers defined: the vectors at P26 and P29. -/
def sixPolys : State :=
  polyAt 26 (allCoef 6) (polyAt 27 (allCoef 5) (polyAt 28 (allCoef 4) (polyAt 29 (allCoef 3) (polyAt 30 (allCoef 2)
    (polyAt 31 (allCoef 1) State.reset)))))

theorem allCoef_length (c : Int) : (allCoef c).length = 256 := List.length_replicate ..

/-- PaddAndPsubWrapCoefficientwise and ProductsWriteTheirDestination: both clauses, the second vector at the last registers. -/
theorem witness_products :
    readPoly sixPolys 26 = .ok (allCoef 6) ∧ readPoly sixPolys 27 = .ok (allCoef 5) ∧
    readPoly sixPolys 28 = .ok (allCoef 4) ∧ readPoly sixPolys 29 = .ok (allCoef 3) ∧
    readPoly sixPolys 30 = .ok (allCoef 2) ∧ readPoly sixPolys 31 = .ok (allCoef 1) := by
  have h := allCoef_length
  refine ⟨?_, ?_, ?_, ?_, ?_, ?_⟩
  · exact readPoly_polyAt _ _ _ (by decide) (h _)
  · rw [sixPolys, readPoly_polyAt_other _ _ _ _ (h _) (by decide)]
    exact readPoly_polyAt _ _ _ (by decide) (h _)
  · rw [sixPolys, readPoly_polyAt_other _ _ _ _ (h _) (by decide), readPoly_polyAt_other _ _ _ _ (h _) (by decide)]
    exact readPoly_polyAt _ _ _ (by decide) (h _)
  · rw [sixPolys, readPoly_polyAt_other _ _ _ _ (h _) (by decide), readPoly_polyAt_other _ _ _ _ (h _) (by decide),
      readPoly_polyAt_other _ _ _ _ (h _) (by decide)]
    exact readPoly_polyAt _ _ _ (by decide) (h _)
  · rw [sixPolys, readPoly_polyAt_other _ _ _ _ (h _) (by decide), readPoly_polyAt_other _ _ _ _ (h _) (by decide),
      readPoly_polyAt_other _ _ _ _ (h _) (by decide), readPoly_polyAt_other _ _ _ _ (h _) (by decide)]
    exact readPoly_polyAt _ _ _ (by decide) (h _)
  · rw [sixPolys, readPoly_polyAt_other _ _ _ _ (h _) (by decide), readPoly_polyAt_other _ _ _ _ (h _) (by decide),
      readPoly_polyAt_other _ _ _ _ (h _) (by decide), readPoly_polyAt_other _ _ _ _ (h _) (by decide),
      readPoly_polyAt_other _ _ _ _ (h _) (by decide)]
    exact readPoly_polyAt _ _ _ (by decide) (h _)

/-- PackingCommandsWriteAtArg0: the four regions end at byte 8191. -/
theorem witness_packing (arg : Word) :
    readPoly (polyAt 31 (allCoef 1) { State.reset with arg0 := arg }) (31 : PReg).toNat = .ok (allCoef 1) ∧
    (0x1E80#32).toNat + 384 = 8192 ∧ (0x1EC0#32).toNat + 320 = 8192 ∧ (0x1F80#32).toNat + 128 = 8192 ∧
    (0x1FE0#32).toNat + 32 = 8192 :=
  ⟨readPoly_polyAt 31 _ _ (by decide) (allCoef_length 1), by decide, by decide, by decide, by decide⟩

/-- `n` zero bytes stand at ARG0 = 8192 − n, at the end of BMEM. -/
def tail (n : Nat) : State := bytesAt (8192 - n) (zeros n) { State.reset with arg0 := BitVec.ofNat 32 (8192 - n) }

theorem readBytes_tail (n : Nat) (h : n ≤ 8192) :
    readBytes (tail n) (tail n).arg0.toNat n = .ok (zeros n) := by
  have ha : (tail n).arg0.toNat = 8192 - n := by
    simp only [tail, bytesAt, BitVec.toNat_ofNat]; omega
  have hz : (zeros n).length = n := List.length_replicate ..
  rw [ha]
  have := readBytes_bytesAt (8192 - n) (zeros n) { State.reset with arg0 := BitVec.ofNat 32 (8192 - n) }
    (by rw [hz]; omega)
  rw [hz] at this
  exact this

/-- UnpackingCommandsReadAtArg0: the four lengths, at the end of BMEM. -/
theorem witness_unpacking :
    readBytes (tail 384) (tail 384).arg0.toNat 384 = .ok (zeros 384) ∧
    readBytes (tail 320) (tail 320).arg0.toNat 320 = .ok (zeros 320) ∧
    readBytes (tail 128) (tail 128).arg0.toNat 128 = .ok (zeros 128) ∧
    readBytes (tail 32) (tail 32).arg0.toNat 32 = .ok (zeros 32) :=
  ⟨readBytes_tail 384 (by omega), readBytes_tail 320 (by omega), readBytes_tail 128 (by omega),
    readBytes_tail 32 (by omega)⟩

/-- SeedCommandsWriteTheirSample: a zero seed at the end of BMEM, HASH answering, and the samples of `test_genentry`. -/
theorem witness_seed_commands :
    let s := { tail 32 with hash := .answers 3 }
    readBytes s s.arg0.toNat 32 = .ok (zeros 32) ∧ s.hash = .answers 3 ∧
    ∃ p, sampleNtt hashFns 3 (zeros 32 ++ [s.arg1.extractLsb' 0 8, s.arg1.extractLsb' 8 8]) = some p := by
  refine ⟨readBytes_tail 32 (by omega), rfl, ?_⟩
  have h := test_genentry
  have he : zeros 32 ++ [(State.reset.arg1).extractLsb' 0 8, (State.reset.arg1).extractLsb' 8 8] = zeros 34 := by decide
  cases hs : sampleNtt hashFns 3 (zeros 34) with
  | none => rw [hs] at h; simp at h
  | some p => exact ⟨p, by rw [← hs]; exact congrArg _ he⟩

/-- The public seed ρ of the KEYGEN coins d = 0^32. -/
def rho : List Byte :=
  [109, 58, 228, 6, 118, 60, 80, 69, 125, 20, 129, 64, 42, 175, 199, 226] ++
  [63, 67, 249, 209, 215, 192, 175, 112, 96, 172, 29, 170, 158, 203, 14, 103]

theorem rho_of_zero_coins : (keygenSeeds hashFns (zeros 32)).1 = rho := by decide +kernel

theorem sample_00 : (sampleNtt hashFns 3 (rho ++ [BitVec.ofNat 8 0, BitVec.ofNat 8 0])).isSome = true := by
  decide +kernel
theorem sample_01 : (sampleNtt hashFns 3 (rho ++ [BitVec.ofNat 8 0, BitVec.ofNat 8 1])).isSome = true := by
  decide +kernel
theorem sample_02 : (sampleNtt hashFns 3 (rho ++ [BitVec.ofNat 8 0, BitVec.ofNat 8 2])).isSome = true := by
  decide +kernel
theorem sample_10 : (sampleNtt hashFns 3 (rho ++ [BitVec.ofNat 8 1, BitVec.ofNat 8 0])).isSome = true := by
  decide +kernel
theorem sample_11 : (sampleNtt hashFns 3 (rho ++ [BitVec.ofNat 8 1, BitVec.ofNat 8 1])).isSome = true := by
  decide +kernel
theorem sample_12 : (sampleNtt hashFns 3 (rho ++ [BitVec.ofNat 8 1, BitVec.ofNat 8 2])).isSome = true := by
  decide +kernel
theorem sample_20 : (sampleNtt hashFns 3 (rho ++ [BitVec.ofNat 8 2, BitVec.ofNat 8 0])).isSome = true := by
  decide +kernel
theorem sample_21 : (sampleNtt hashFns 3 (rho ++ [BitVec.ofNat 8 2, BitVec.ofNat 8 1])).isSome = true := by
  decide +kernel
theorem sample_22 : (sampleNtt hashFns 3 (rho ++ [BitVec.ofNat 8 2, BitVec.ofNat 8 2])).isSome = true := by
  decide +kernel

theorem samples_by_index (x y : Nat) (hx : x < 3) (hy : y < 3) :
    (sampleNtt hashFns 3 (rho ++ [BitVec.ofNat 8 x, BitVec.ofNat 8 y])).isSome = true := by
  have hx' : x = 0 ∨ x = 1 ∨ x = 2 := by omega
  have hy' : y = 0 ∨ y = 1 ∨ y = 2 := by omega
  rcases hx' with rfl | rfl | rfl <;> rcases hy' with rfl | rfl | rfl
  exacts [sample_00, sample_01, sample_02, sample_10, sample_11, sample_12, sample_20, sample_21, sample_22]

/-- Three blocks suffice for all nine entries of ρ's matrix, in both orders. -/
theorem samples_of_rho (t : Bool) (i j : Nat) (hi : i < 3) (hj : j < 3) :
    (sampleNtt hashFns 3 (entryMessage rho t i j)).isSome = true := by
  cases t
  · exact samples_by_index j i hj hi
  · exact samples_by_index i j hi hj

theorem vec3Option_isSome {α : Type} {f : Nat → Option α} (h : ∀ i, i < 3 → (f i).isSome = true) :
    (vec3Option f).isSome = true := by
  obtain ⟨x, hx⟩ := Option.isSome_iff_exists.1 (h 0 (by omega))
  obtain ⟨y, hy⟩ := Option.isSome_iff_exists.1 (h 1 (by omega))
  obtain ⟨z, hz⟩ := Option.isSome_iff_exists.1 (h 2 (by omega))
  simp [vec3Option, hx, hy, hz]

theorem matrix_of_rho (t : Bool) : ∃ a, genMatrix hashFns 3 rho t = some a :=
  Option.isSome_iff_exists.1 (vec3Option_isSome fun i hi => vec3Option_isSome fun j hj => samples_of_rho t i j hi hj)

/-- The matrix of ρ, on three blocks. -/
def matrixRho (t : Bool) (i j : Nat) : Poly := (sampleNtt hashFns 3 (entryMessage rho t i j)).getD []

theorem matrixRho_isMatrix (t : Bool) : IsMatrix 3 rho t (matrixRho t) := by
  intro i j hi hj
  obtain ⟨p, hp⟩ := Option.isSome_iff_exists.1 (samples_of_rho t i j hi hj)
  rw [show (rho ++ if t then [BitVec.ofNat 8 i, BitVec.ofNat 8 j] else [BitVec.ofNat 8 j, BitVec.ofNat 8 i]) =
    entryMessage rho t i j by cases t <;> rfl, hp]
  simp [matrixRho, hp]

/-- GenmatrixWritesNineEntries: pd = 23, the seed ρ at the end of BMEM. -/
theorem witness_genmatrix (t : Bool) :
    let s := bytesAt 8160 rho { State.reset with arg0 := 8160, hash := .answers 3 }
    (23 : PReg).toNat ≤ 23 ∧ readBytes s s.arg0.toNat 32 = .ok rho ∧ s.hash = .answers 3 ∧
    ∃ entry : Nat → Nat → Poly, ∀ i j, i < 3 → j < 3 →
      sampleNtt hashFns 3
        (rho ++ if t then [BitVec.ofNat 8 i, BitVec.ofNat 8 j] else [BitVec.ofNat 8 j, BitVec.ofNat 8 i]) =
        some (entry i j) :=
  ⟨by decide, readBytes_bytesAt 8160 rho _ (by decide), rfl, matrixRho t, matrixRho_isMatrix t⟩

/-- VerifyTellsWhetherTheStringsDiffer and CmovbCopiesWhenTheConditionHolds: two strings, overlapping; and length 0 at
the very end. -/
theorem witness_two_strings :
    (let s := bytesAt 0 [1, 2, 3, 4] { State.reset with arg0 := 1, arg1 := 0, arg2 := 3 }
     readBytes s s.arg0.toNat s.arg2.toNat = .ok [2, 3, 4] ∧ readBytes s s.arg1.toNat s.arg2.toNat = .ok [1, 2, 3]) ∧
    (let s := { State.reset with arg0 := 8192, arg1 := 8192 }
     readBytes s s.arg0.toNat s.arg2.toNat = .ok [] ∧ readBytes s s.arg1.toNat s.arg2.toNat = .ok []) := by
  refine ⟨⟨?_, ?_⟩, ?_, ?_⟩ <;> rfl

/-- KeygenWritesPkAndSk: zero coins. -/
theorem witness_keygen :
    let s := bytesAt 0x1260 (zeros 64) { State.reset with hash := .answers 3 }
    readBytes s 0x1260 64 = .ok (zeros 64) ∧ s.hash = .answers 3 ∧
    IsMatrix 3 ((hashFns.sha3_512 ((zeros 64).take 32 ++ [3])).take 32) false (matrixRho false) := by
  refine ⟨readBytes_bytesAt 0x1260 (zeros 64) _ (by decide), rfl, ?_⟩
  have hz : (zeros 64).take 32 = zeros 32 := by decide
  have hr : (hashFns.sha3_512 (zeros 32 ++ [3])).take 32 = rho := rho_of_zero_coins
  rw [hz, hr]
  exact matrixRho_isMatrix false

/-- An encapsulation key that ends with ρ. -/
def pkRho : List Byte := zeros 1152 ++ rho

theorem pkRho_length : pkRho.length = 1184 := by
  simp [pkRho, zeros, rho]

theorem pkRho_seed : pkRho.drop 1152 = rho := by
  decide +kernel

/-- EncapsWritesCtAndSs: the key of ρ, zero m. -/
theorem witness_encaps :
    let s := bytesAt 0 pkRho (bytesAt 0x1260 (zeros 32) { State.reset with hash := .answers 3 })
    readBytes s 0x0000 1184 = .ok pkRho ∧ readBytes s 0x1260 32 = .ok (zeros 32) ∧ s.hash = .answers 3 ∧
    IsMatrix 3 (pkRho.drop 1152) true (matrixRho true) := by
  refine ⟨?_, ?_, rfl, pkRho_seed ▸ matrixRho_isMatrix true⟩
  · have := readBytes_bytesAt 0 pkRho (bytesAt 0x1260 (zeros 32) { State.reset with hash := .answers 3 })
      (by rw [pkRho_length]; omega)
    rw [pkRho_length] at this
    exact this
  · rw [readBytes_bytesAt_other _ _ _ _ _ (by rw [pkRho_length]; omega)]
    exact readBytes_bytesAt 0x1260 (zeros 32) _ (by decide)

/-- A decapsulation key that holds the key of ρ. -/
def skRho : List Byte := zeros 1152 ++ (pkRho ++ zeros 64)

theorem skRho_length : skRho.length = 2400 := by
  simp [skRho, pkRho_length, zeros]

theorem skRho_seed : (skRho.drop 2304).take 32 = rho := by
  decide +kernel

/-- DecapsRejectsImplicitly: that key and a zero ciphertext. -/
theorem witness_decaps :
    let s := bytesAt 0x04A0 skRho (bytesAt 0x0E00 (zeros 1088) { State.reset with hash := .answers 3 })
    readBytes s 0x04A0 2400 = .ok skRho ∧ readBytes s 0x0E00 1088 = .ok (zeros 1088) ∧ s.hash = .answers 3 ∧
    IsMatrix 3 ((skRho.drop 2304).take 32) true (matrixRho true) := by
  refine ⟨?_, ?_, rfl, skRho_seed ▸ matrixRho_isMatrix true⟩
  · have := readBytes_bytesAt 0x04A0 skRho (bytesAt 0x0E00 (zeros 1088) { State.reset with hash := .answers 3 })
      (by rw [skRho_length]; omega)
    rw [skRho_length] at this
    exact this
  · have hz : (zeros 1088).length = 1088 := List.length_replicate ..
    rw [readBytes_bytesAt_other _ _ _ _ _ (by rw [skRho_length]; omega)]
    have := readBytes_bytesAt 0x0E00 (zeros 1088) { State.reset with hash := .answers 3 } (by rw [hz]; omega)
    rw [hz] at this
    exact this

/-- VFormIsThreeSingleForms and StridedVFormIsThreeSingleForms: the last registers, and the last bytes for each stride. -/
theorem witness_v_forms :
    (29 : PReg).toNat ≤ 29 ∧ (0x1B80#32).toNat + 3 * 384 = 8192 ∧ (0x1C40#32).toNat + 3 * 320 = 8192 ∧
    (0x1E80#32).toNat + 3 * 128 = 8192 := by
  decide

/-- CommandChangesOnlyItsDestinationSet and OnlyTheNamedCommandsWriteResults: a command that writes memory, and one for
each of SR0, SR1 and CTFLAG. -/
theorem witness_frames :
    (∃ t, exec (.ntt false 31 31) (polyAt 31 (allCoef 1) State.reset) = .next t) ∧
    (∃ t, exec .bflyf { State.reset with sa := 1, sb := 1 } = .next t ∧ t.sr0 ≠ 0) ∧
    (∃ t, exec .bflyf { State.reset with sa := 1 } = .next t ∧ t.sr1 ≠ 0) ∧
    ∃ t, exec .verify (bytesAt 0 [1, 2] { State.reset with arg1 := 1, arg2 := 1 }) = .next t ∧ t.ctflag ≠ false := by
  refine ⟨?_, ⟨_, rfl, by decide⟩, ⟨_, rfl, by decide⟩, ⟨_, rfl, by decide⟩⟩
  have h := readPoly_polyAt 31 (allCoef 1) State.reset (by decide) (allCoef_length 1)
  refine ⟨complete { polyAt 31 (allCoef 1) State.reset with
    preg := writeCells (polyAt 31 (allCoef 1) State.reset).preg (256 * 31) (ntt (allCoef 1)) }, ?_⟩
  have hr : readPoly (polyAt 31 (allCoef 1) State.reset) ((31 : PReg).toNat + 0) = .ok (allCoef 1) := h
  show finish (mapElem ntt 31 31 0 (polyAt 31 (allCoef 1) State.reset)) = _
  rw [mapElem, hr]
  rfl

theorem sourceDefined_tail :
    ∀ j, j < 32 → (readCell (tail 32).bmem (8160 + j)).isSome = true := by
  intro j hj
  have h := (readBytes_ok_iff.1 (readBytes_tail 32 (by omega))).2.2 j hj
  have ha : (tail 32).arg0.toNat = 8160 := by decide
  rw [ha] at h
  have hl : (zeros 32).length = 32 := List.length_replicate ..
  show (byteOf (tail 32) (8160 + j)).isSome = true
  rw [h, List.getElem?_eq_getElem (by omega)]
  rfl

/-- The zero seed at the end of BMEM, as a source of GENENTRY. -/
theorem genentry_ready (h : HashTurn) :
    checkInstr (.genentry 31) { tail 32 with hash := h } = .ok ∧
    sourcesDefined (.genentry 31) { tail 32 with hash := h } = true := by
  refine ⟨(checkInstr_congr _ (s := tail 32) rfl rfl rfl).trans (by decide +kernel), ?_⟩
  have ha : arg0Off { tail 32 with hash := h } = 8160 := show (tail 32).arg0.toNat = 8160 by decide
  simp only [sourcesDefined, Instr.sourceRegs, sourceRegions, ha, List.all_nil, Bool.true_and, List.all_cons,
    Bool.and_true, regionDefined, List.all_eq_true, List.mem_range]
  exact sourceDefined_tail

theorem samples_ready (h : HashTurn) : samplersFinish 3 (.genentry 31) { tail 32 with hash := h } = true := by
  have hb : readBytes { tail 32 with hash := h } (arg0Off { tail 32 with hash := h }) 32 = .ok (zeros 32) :=
    readBytes_tail 32 (by omega)
  have hi : inputBytes { tail 32 with hash := h } (arg0Off { tail 32 with hash := h }) 32 = zeros 32 := by
    rw [inputBytes, hb]
  obtain ⟨p, hp⟩ := witness_seed_commands.2.2
  simp only [samplersFinish, hi]
  rw [show genentryMessage (zeros 32) { tail 32 with hash := h } =
    zeros 32 ++ [(State.reset.arg1).extractLsb' 0 8, (State.reset.arg1).extractLsb' 8 8] from rfl]
  exact Option.isSome_iff_exists.2 ⟨p, hp⟩

/-- CheckedCommandCompletes and HashTrafficShapeIsPublic: GENENTRY with its sampler finished. -/
theorem witness_completion :
    let s := { tail 32 with hash := HashTurn.answers 3 }
    checkInstr (.genentry 31) s = .ok ∧ sourcesDefined (.genentry 31) s = true ∧ s.hash = .answers 3 ∧
      samplersFinish 3 (.genentry 31) s = true :=
  ⟨(genentry_ready _).1, (genentry_ready _).2, rfl, samples_ready _⟩

/-- UndefinedSourceStopsTheCommand: a register source; the last register of a V form in place; a byte source. -/
theorem witness_undefined_source :
    (checkInstr (.ntt false 0 31) State.reset = .ok ∧ UndefinedCoeffSource (.ntt false 0 31) State.reset) ∧
    (checkInstr (.ntt true 29 29) State.reset = .ok ∧ UndefinedCoeffSource (.ntt true 29 29) State.reset) ∧
    checkInstr .keygen State.reset = .ok ∧ UndefinedByteSource .keygen State.reset :=
  ⟨⟨by decide, (31, 1), .head _, 0, by decide, by decide, 255, by decide, by decide⟩,
    ⟨by decide, (29, 3), .head _, 2, by decide, by decide, 255, by decide, by decide⟩,
    by decide, coinsRegion, .head _, 0x129F, by decide, by decide, by decide⟩

/-- WaitingCommandChangesNothing: both clauses, on GENENTRY. -/
theorem witness_waiting :
    (checkInstr (.genentry 31) { tail 32 with hash := .silent } = .ok ∧
      sourcesDefined (.genentry 31) { tail 32 with hash := .silent } = true) ∧
    (checkInstr (.genentry 31) { tail 32 with hash := .answers 0 } = .ok ∧
      sourcesDefined (.genentry 31) { tail 32 with hash := .answers 0 } = true ∧
      samplersFinish 0 (.genentry 31) { tail 32 with hash := .answers 0 } = false) := by
  refine ⟨genentry_ready _, (genentry_ready _).1, (genentry_ready _).2, ?_⟩
  rfl

/-- StepKeepsTheInvariant and StepStopsOnlyAtUndefinedCells: a reset block about to accept NTT P2, P0, and the block with
that command pending. -/
theorem witness_invariant :
    State.Inv { State.reset with events := [.write 0x010 0x00000210] } ∧
    (∃ t, step { State.reset with events := [.write 0x010 0x00000210] } = .next t) ∧
    State.Inv (pending 0x00000210 State.reset) ∧
    ∃ f, step (pending 0x00000210 State.reset) = .fault f := by
  refine ⟨⟨reset_bmem_wf, reset_preg_wf, by decide, by decide, by decide, by simp [State.reset]⟩, ⟨_, rfl⟩,
    ⟨reset_bmem_wf, reset_preg_wf, by decide, by decide, by decide, ?_⟩, ⟨.undefinedCoeff 0 0, rfl⟩⟩
  intro w hw
  simp only [pending, Option.some.injEq] at hw
  subst hw
  decide

/-- MisalignedAndUnmappedAccessesAreRefused: the ends of the four holes, and a misaligned address. -/
theorem witness_refused_addresses :
    [(0x0040 : BitVec 16), 0x00FC, 0x0200, 0x1FFC, 0x4000, 0x7FFC, 0xC000, 0xFFFC].all
      (fun a => target a == .unmapped) = true ∧
    [(0x003E : BitVec 16), 0x2001, 0xFFFF].all (fun a => target a == .misaligned) = true ∧
    (let s := { State.reset with events := [.read 0x0040] }
     s.rstN = true ∧ s.events = .read 0x0040 :: []) := by
  decide

/-- BusyBlockLocksDataAndOperands: a pending command, and the ends of both windows. -/
theorem witness_busy :
    (let s := { pending 0 State.reset with events := [.write 0x014 0] }
     s.rstN = true ∧ s.pend ≠ none ∧ s.events = .write 0x014 0 :: []) ∧
    [(0x2000 : BitVec 16), 0x3FFC, 0x8000, 0xBFFC].all (fun a => a.toNat % 4 == 0) = true := by
  decide

/-- HostReadHasNoSideEffect: the last CSR word, with a command pending. -/
theorem witness_read :
    let s := { pending 0x50 State.reset with events := [.read 0x03C] }
    (∃ t, step s = .next t) ∧ 15 < 16 ∧ s.rstN = true ∧ s.events = .read (BitVec.ofNat 16 (4 * 15)) :: [] :=
  ⟨⟨_, rfl⟩, by decide, rfl, rfl⟩

/-- BmemWindowMovesFourBytes: the last word, written; read with its four bytes defined; read with none. -/
theorem witness_bmem_window :
    2047 < 2048 ∧ State.reset.rstN = true ∧ State.reset.pend = none ∧
    BitVec.ofNat 16 (0x2000 + 4 * 2047) = 0x3FFC ∧
    (let s := bytesAt 8188 [1, 2, 3, 4] State.reset
     byteOf s 8188 = some 1 ∧ byteOf s 8189 = some 2 ∧ byteOf s 8190 = some 3 ∧ byteOf s 8191 = some 4) ∧
    byteOf State.reset 8191 = none := by
  decide

/-- PregWindowMovesTwoCoefficients: the last word of P31, defined, and with its higher coefficient undefined. -/
theorem witness_preg_window :
    31 < 32 ∧ 127 < 128 ∧ BitVec.ofNat 16 (0x8000 + 512 * 31 + 4 * 127) = 0xBFFC ∧
    (let s := { State.reset with preg := writeCells [] 8190 [5, 6] }
     coeffOf s 31 254 = some 5 ∧ coeffOf s 31 255 = some 6) ∧
    (let s := { State.reset with preg := writeCells [] 8190 [5] }
     coeffOf s 31 254 = some 5 ∧ coeffOf s 31 255 = none) := by
  decide

/-- ZromWindowIsReadOnly, CsrWritesReadBackOrAreIgnored, StatusWriteClearsByOnes, InterruptIsIeAndDone and
SoftResetAbortsAndKeepsMemory: one event each, with a pending command where the clause asks for one. -/
theorem witness_bus_events :
    (State.reset.rstN = true ∧ State.reset.pend = none ∧ BitVec.ofNat 16 (0x0100 + 4 * 63) = 0x01FC) ∧
    ((2 : Word).getLsbD 0 = false ∧ (3 : Word).getLsbD 0 = true) ∧
    (let s := { pending 0x50 State.reset with events := [.write 0x008 3] }
     s.rstN = true ∧ s.events = .write 0x008 3 :: [] ∧ s.pend = some 0x50 ∧ decode 0x50 = .ok .keygen) := by
  decide

/-- PackingCommandsWriteAtArg0 and UnpackingCommandsReadAtArg0: a coefficient at each end of (−q, q), and the last 10-bit
and 4-bit field of a string. -/
theorem witness_fields :
    (-3329 < (-3328 : Coef).toInt ∧ (3328 : Coef).toInt < 3329) ∧ 255 < 256 ∧
    (∀ k, k < 10 → (0x3FF : BitVec 10).getLsbD k = bitAt (List.replicate 320 0xFF) (10 * 255 + k)) ∧
    (∀ k, k < 4 → (0x9 : BitVec 4).getLsbD k = bitAt (List.replicate 127 0 ++ [0x90]) (4 * 255 + k)) := by
  decide +kernel

/-- HardResetLeavesTheResetState: the level events, and a transaction while RST_N is low. -/
theorem witness_hard_reset :
    (∃ t, step { State.reset with events := [.rstN false] } = .next t) ∧
    (let s := { State.reset with rstN := false, events := [.read 0x000] }
     s.rstN = false ∧ s.events = .read 0x000 :: []) ∧
    (let s := { State.reset with rstN := false, events := [.rstN true] }
     s.rstN = false ∧ s.events = .rstN true :: []) ∧
    (let s := { State.reset with events := [.rstN true] }
     s.rstN = true ∧ s.events = .rstN true :: []) :=
  ⟨⟨_, rfl⟩, ⟨rfl, rfl⟩, ⟨rfl, rfl⟩, rfl, rfl⟩

/-- A hash family that answers zeros: every candidate of its stream is accepted. -/
def zeroHash : Config.HashFns where
  sha3_256 _ := zeros 32
  sha3_512 _ := zeros 64
  shake128 _ _ := zeros 168
  shake256 _ len := zeros len
  sha3_256_length _ := List.length_replicate ..
  sha3_512_length _ := List.length_replicate ..
  shake128_length _ _ := List.length_replicate ..
  shake256_length _ _ := List.length_replicate ..

/-- SamplerDoesNotDependOnBlockCount: three blocks yield 256 values, two do not. -/
theorem witness_sampler :
    (sampleNtt zeroHash 3 []).isSome = true ∧ sampleNtt zeroHash 2 [] = none := by
  decide +kernel

/-- TransposedMatrixIsTheTranspose: both matrices are sampled. -/
theorem witness_transpose :
    (∃ a, genMatrix hashFns 3 rho false = some a) ∧ ∃ b, genMatrix hashFns 3 rho true = some b :=
  ⟨matrix_of_rho false, matrix_of_rho true⟩

/-- InverseTransformUndoesForward and CodingsRoundTrip: 256 coefficients at the end of (−q, q), and a 32-byte message. -/
theorem witness_codings :
    (allCoef 3328).length = 256 ∧ (∀ c ∈ allCoef 3328, -3329 < c.toInt ∧ c.toInt < 3329) ∧ (zeros 32).length = 32 := by
  refine ⟨allCoef_length _, fun c hc => ?_, rfl⟩
  rw [List.eq_of_mem_replicate hc]
  decide

end Sys2Proof.Tests
end

section
/-! PROOFS. The state (spec/10_state.md): the invariant of a run, who writes the result registers, where an undefined
source stops a command, and the CSRs. -/

namespace Sys2Proof.Machine

/-! What a CSR write does as a step, and what an issue does (R32, R50, R81, R200). -/

/-- A host write to CSR word `k`, as a step. -/
theorem step_csrWrite {s t : State} {a : BitVec 16} {k : Nat} {d : Word} {r : BusResp} {rest : List Event}
    (hk : k < 16) (ha : a.toNat = 4 * k) (h : s.events = .write a d :: rest) (hr : s.rstN = true)
    (hw : csrWrite k d { s with events := rest } = (t, r)) : step s = .next { t with resp := some r } := by
  have ht : target a = .csr k := by
    rw [target_csr (by omega) (by omega), ha, Nat.mul_div_cancel_left k (by omega)]
  have hh : hostWrite a d { s with events := rest } = (t, r) := by
    rw [hostWrite, ht]
    exact hw
  rw [step_write h hr, hh]

theorem writeOperand_idle {s : State} (h : s.pend = none) (written : State) :
    writeOperand s written = (written, writeOk) := by
  simp [writeOperand, State.busy, h]

theorem writeOperand_busy {s : State} (h : s.pend ≠ none) (written : State) :
    writeOperand s written = (s, writeErr) := by
  rw [writeOperand, State.busy, if_pos (Option.isSome_iff_ne_none.2 h)]

theorem target_bmem_lt {a : BitVec 16} {w : Nat} (h : target a = .bmem w) : w < 2048 := by
  simp only [target] at h
  split_ifs at h
  cases h
  omega

theorem target_preg_lt {a : BitVec 16} {w : Nat} (h : target a = .preg w) : w < 4096 := by
  simp only [target] at h
  split_ifs at h
  cases h
  omega

/-- The issue of a word latches it when Check passes and rejects it otherwise (R200, R201, R205). -/
theorem issue_cases (w : Word) (s : State) :
    (check w s = .ok ∧ issue w s = accept w { s with cmd := w, lastop := opField w }) ∨
      (check w s ≠ .ok ∧ issue w s = reject (check w s) { s with cmd := w, lastop := opField w }) := by
  have hc : check w { s with cmd := w, lastop := opField w } = check w s := check_congr w rfl rfl rfl
  unfold issue
  simp only [hc]
  cases check w s with
  | ok => exact .inl ⟨rfl, rfl⟩
  | illegalCmd | pregRange | bmemRange => exact .inr ⟨by simp, rfl⟩

/-! The invariant, update by update. -/

/-- With no command pending, the clause on PEND says nothing. -/
theorem State.Inv.of_idle {s : State} (hb : Memory.wf s.bmem) (hp : PolyFile.wf s.preg)
    (h0 : s.sr0 = sext32 (lo16 s.sr0)) (h1 : s.sr1 = sext32 (lo16 s.sr1)) (hl : s.lastop = opField s.cmd)
    (hn : s.pend = none) : s.Inv :=
  ⟨hb, hp, h0, h1, hl, fun w hw => by rw [hn] at hw; cases hw⟩

/-- The invariant is about the block, not about what the outside does next or saw last. -/
theorem State.Inv.outside {s : State} (h : s.Inv) (events : List Event) (hash : HashTurn) (resp : Option BusResp) :
    ({ s with events := events, hash := hash, resp := resp } : State).Inv :=
  { h with }

theorem abort_cases (s : State) : abort s = s ∨ ∃ i, abort s = undefineDest i s := by
  unfold abort
  split
  · exact .inl rfl
  · split
    · exact .inl rfl
    · exact .inr ⟨_, rfl⟩

theorem State.Inv.softReset {s : State} (h : s.Inv) (w : Word) : (softReset w s).Inv := by
  have hwf : Memory.wf (abort s).bmem ∧ PolyFile.wf (abort s).preg := by
    rcases abort_cases s with ha | ⟨i, ha⟩ <;> rw [ha]
    · exact ⟨h.bmem, h.preg⟩
    · exact ⟨wf_undefineDest_bmem h.bmem, wf_undefineDest_preg h.preg⟩
  exact .of_idle hwf.1 hwf.2 rfl rfl rfl rfl

theorem State.Inv.writeCtrl {s : State} (h : s.Inv) (w : Word) : (writeCtrl w s).Inv := by
  unfold Machine.writeCtrl
  split
  · exact h.softReset w
  · exact { h with }

theorem State.Inv.driveRstN {s : State} (h : s.Inv) (level : Bool) : (driveRstN level s).Inv := by
  unfold Machine.driveRstN
  split
  · exact h
  · exact .of_idle reset_bmem_wf reset_preg_wf rfl rfl rfl rfl

/-- The issued word is the one in CMD; it is pending only if Check passed (R200, R201). -/
theorem State.Inv.issue {s : State} (h : s.Inv) (hr : s.rstN = true) (hn : s.pend = none) (w : Word) :
    (issue w s).Inv := by
  rcases issue_cases w s with ⟨hc, hi⟩ | ⟨-, hi⟩ <;> rw [hi]
  · refine ⟨h.bmem, h.preg, h.sr0, h.sr1, rfl, fun v hv => ?_⟩
    obtain rfl : w = v := Option.some.inj hv
    exact ⟨rfl, (check_congr w rfl rfl rfl).trans hc, rfl, hr⟩
  · exact .of_idle h.bmem h.preg h.sr0 h.sr1 rfl hn

theorem State.Inv.writeCmd {s : State} (h : s.Inv) (hr : s.rstN = true) (w : Word) : (writeCmd w s).Inv := by
  unfold Machine.writeCmd
  split
  · exact { h with }
  · rename_i hb
    exact h.issue hr (by simpa [State.busy] using hb) w

/-- W1C can only clear DONE, so it is still 0 under a pending command. -/
theorem State.Inv.ackStatus {s : State} (h : s.Inv) (w : Word) : (ackStatus w s).Inv :=
  { h with
    pend := fun v hv => by
      obtain ⟨hcmd, hcheck, hdone, hrst⟩ := h.pend v hv
      exact ⟨hcmd, hcheck, by simp [hdone], hrst⟩ }

/-- An operand register is written only while no command is pending, so Check of a pending one stands (R50). -/
theorem State.Inv.writeOperand {s t : State} (h : s.Inv)
    (ht : t = { s with
      arg0 := t.arg0, arg1 := t.arg1, arg2 := t.arg2, sa := t.sa, sb := t.sb, sz := t.sz, ctflag := t.ctflag }) :
    (writeOperand s t).1.Inv := by
  by_cases hn : s.pend = none
  · rw [writeOperand_idle hn, ht]
    exact .of_idle h.bmem h.preg h.sr0 h.sr1 h.lastop hn
  · rw [writeOperand_busy hn]
    exact h

theorem State.Inv.csrWrite {s : State} (h : s.Inv) (hr : s.rstN = true) (k : Nat) (w : Word) :
    (csrWrite k w s).1.Inv := by
  unfold Machine.csrWrite
  split
  · exact h.writeCtrl w
  · exact h.ackStatus w
  · exact h.writeCmd hr w
  iterate 7 · exact h.writeOperand rfl
  · exact h

theorem State.Inv.hostWrite {s : State} (h : s.Inv) (hr : s.rstN = true) (a : BitVec 16) (d : Word) :
    (hostWrite a d s).1.Inv := by
  unfold Machine.hostWrite
  cases ht : target a with
  | misaligned => exact h
  | csr k => exact h.csrWrite hr k d
  | zrom w => exact h
  | bmem w =>
    by_cases hb : s.busy
    · simpa only [hb, if_true] using h
    · simp only [hb]
      exact { h with bmem := wf_bmemWrite d (target_bmem_lt ht) h.bmem }
  | preg w =>
    by_cases hb : s.busy
    · simpa only [hb, if_true] using h
    · simp only [hb]
      exact { h with preg := wf_pregWrite d (target_preg_lt ht) h.preg }
  | unmapped => exact h

/-- A result register that is kept, or written with an `s16` result, stays sign-extended (R40). -/
theorem signExtended_of_result {x y : Word} {p : Prop} (hx : x = sext32 (lo16 x))
    (hy : y = x ∨ p ∧ ∃ c, y = sext32 c) : y = sext32 (lo16 y) := by
  rcases hy with rfl | ⟨-, c, rfl⟩
  · exact hx
  · exact (sext32_lo16_sext32 c).symm

/-- A command that completes leaves PEND empty, and every result it writes is sign-extended (R40, R204). -/
theorem ActsTo.inv_complete {i : Instr} {s u : State} (ha : ActsTo i s u) (h : s.Inv) : (complete u).Inv := by
  have hl : u.lastop = opField u.cmd := by
    rw [ha.shape]
    exact h.lastop
  exact .of_idle (ha.bmemWf h.bmem) (ha.pregWf h.preg) (signExtended_of_result h.sr0 ha.sr0)
    (signExtended_of_result h.sr1 ha.sr1) hl rfl

theorem State.Inv.exec {s t : State} (h : s.Inv) {i : Instr} (he : exec i s = .next t) : t.Inv := by
  rcases (exec_acts i s).next t he with ⟨rfl, -⟩ | ⟨u, rfl, ha⟩
  · exact h
  · exact ha.inv_complete h

theorem State.Inv.engineTurn {s t : State} (h : s.Inv) (he : engineTurn s = .next t) : t.Inv := by
  unfold Machine.engineTurn at he
  split at he
  · split at he
    · cases he
      exact h
    · split at he
      · cases he
      · exact h.exec he
  · cases he
    exact h

theorem State.Inv.hostReadTurn {s t : State} (h : s.Inv) {a : BitVec 16} (he : hostReadTurn a s = .next t) :
    t.Inv := by
  unfold Machine.hostReadTurn at he
  split at he
  · split at he
    · cases he
    · cases he
      exact { h with }
  · cases he
    exact { h with }

theorem State.Inv.hostWriteTurn {s t : State} (h : s.Inv) {a : BitVec 16} {d : Word}
    (he : hostWriteTurn a d s = .next t) : t.Inv := by
  unfold Machine.hostWriteTurn at he
  split at he
  · rename_i hr
    cases he
    exact { h.hostWrite hr a d with }
  · cases he
    exact { h with }

theorem State.Inv.handle {s t : State} (h : s.Inv) {e : Event} (he : handle e s = .next t) : t.Inv := by
  cases e with
  | read a => exact h.hostReadTurn he
  | write a d => exact h.hostWriteTurn he
  | engine hash => exact (h.outside s.events hash s.resp).engineTurn he
  | rstN level =>
    cases he
    exact h.driveRstN level

/-- Settles O40: each event of the outside and the ENGINE's turn keep the invariant. -/
theorem stepKeepsTheInvariant : Obligations.StepKeepsTheInvariant := by
  intro s t h hs
  unfold step turn at hs
  split at hs
  · exact h.engineTurn hs
  · exact (h.outside _ s.hash s.resp).handle hs

/-- Settles O39. -/
theorem resetMeetsTheInvariant : Obligations.ResetMeetsTheInvariant :=
  .of_idle reset_bmem_wf reset_preg_wf rfl rfl rfl rfl

/-! SR0, SR1 and CTFLAG (R40, R52). -/

/-- Settles O35: what a completed command may change is said once, in `ActsTo`; a waiting one changes nothing. -/
theorem onlyTheNamedCommandsWriteResults : Obligations.OnlyTheNamedCommandsWriteResults := by
  intro i s t he
  rcases (exec_acts i s).next t he with ⟨rfl, -⟩ | ⟨u, rfl, ha⟩
  · exact ⟨fun h => absurd rfl h, fun h => absurd rfl h, fun h => absurd rfl h⟩
  · exact ⟨fun h => (ha.sr0.resolve_left h).1, fun h => (ha.sr1.resolve_left h).1, ha.ctflag.resolve_left⟩

/-! Where an undefined source stops a command (R51). -/

/-- The fault at a source cell of a checked command names a cell undefined in the state. -/
theorem FaultIn.undefinedIn {i : Instr} {s : State} {f : Fault} (hc : checkInstr i s = .ok)
    (h : FaultIn (InRegs i.sourceRegs) (InBytes (sourceRegions i s)) s f) : f.UndefinedIn s := by
  rcases h with ⟨k, rfl, ⟨⟨a, len⟩, hr, -, hk⟩, hn⟩ | ⟨k, rfl, ⟨⟨r, m⟩, hr, -, hk⟩, hn⟩
  · have hle : a + len ≤ 8192 := regions_ok hc (by simp [regions, hr])
    exact .inl ⟨k, rfl, by simp only at hk; omega, hn⟩
  · have hle : r + m ≤ 32 := usedRegs_ok hc (by simp [Instr.usedRegs, hr])
    exact .inr ⟨k / 256, k % 256, rfl, by simp only at hk; omega, by omega, by
      rw [coeffOf, Nat.div_add_mod]; exact hn⟩

theorem byteOf_ne_none_of_readBytes {s : State} {a len : Nat} {b : List Byte} (h : readBytes s a len = .ok b)
    {k : Nat} (h1 : a ≤ k) (h2 : k < a + len) : byteOf s k ≠ none := by
  obtain ⟨-, hl, hb⟩ := readBytes_ok_iff.1 h
  have hk := hb (k - a) (by omega)
  rw [Nat.add_sub_cancel' h1, List.getElem?_eq_getElem (by omega)] at hk
  simp [hk]

theorem coeffOf_ne_none_of_readPoly {s : State} {n : Nat} {p : Poly} (h : readPoly s n = .ok p) {j : Nat}
    (hj : j < 256) : coeffOf s n j ≠ none := by
  obtain ⟨-, hl, hp⟩ := readPoly_ok_iff.1 h
  rw [hp j hj, List.getElem?_eq_getElem (by omega)]
  simp

theorem readPoly_of_readVec {s : State} {n : Nat} {v : Vec3 Poly} (h : readVec s n = .ok v) {k : Nat} (hk : k < 3) :
    ∃ p, readPoly s (n + k) = .ok p := by
  obtain ⟨p0, h0, h⟩ := except_bind_ok.1 h
  obtain ⟨p1, h1, h⟩ := except_bind_ok.1 h
  obtain ⟨p2, h2, -⟩ := except_bind_ok.1 h
  match k, hk with
  | 0, _ => exact ⟨p0, h0⟩
  | 1, _ => exact ⟨p1, h1⟩
  | 2, _ => exact ⟨p2, h2⟩

/-- When the V loop succeeds, element `k` ran, from a state that looks as the first did in whatever the elements
before `k` leave alone. -/
theorem forElems_ok_elem {β : Type} {look : State → β} {v : Bool} {elem : Nat → State → Except Fault State}
    {s u : State} {k : Nat} (h : forElems v elem s = .ok u) (hk : k < vSpan v)
    (hkeep : ∀ i, i < k → ∀ t t', elem i t = .ok t' → look t' = look t) :
    ∃ t t', elem k t = .ok t' ∧ look t = look s := by
  cases v with
  | false =>
    obtain rfl : k = 0 := Nat.lt_one_iff.1 hk
    exact ⟨s, u, h, rfl⟩
  | true =>
    rw [forElems_true] at h
    obtain ⟨s2, h, h2⟩ := except_bind_ok.1 h
    obtain ⟨s1, h0, h1⟩ := except_bind_ok.1 h
    match k, hk with
    | 0, _ => exact ⟨s, s1, h0, rfl⟩
    | 1, _ => exact ⟨s1, s2, h1, hkeep 0 (by omega) _ _ h0⟩
    | 2, _ => exact ⟨s2, u, h2, (hkeep 1 (by omega) _ _ h1).trans (hkeep 0 (by omega) _ _ h0)⟩

/-- Every cell the command reads was defined when it was read. -/
structure SourcesRead (i : Instr) (s : State) : Prop where
  coeffs : ¬ UndefinedCoeffSource i s
  bytes : ¬ UndefinedByteSource i s

/-- A command without V form reads its registers as the state holds them. -/
theorem not_undefinedCoeffSource_of_read {i : Instr} {s : State}
    (h : ∀ r ∈ i.sourceRegs, ∀ k, k < r.2 → ∃ p, readPoly s (r.1 + k) = .ok p) : ¬ UndefinedCoeffSource i s := by
  rintro ⟨r, hr, k, hk, -, j, hj, hn⟩
  obtain ⟨p, hp⟩ := h r hr k hk
  exact coeffOf_ne_none_of_readPoly hp hj hn

theorem not_undefinedByteSource_of_read {i : Instr} {s : State}
    (h : ∀ r ∈ sourceRegions i s, ∃ b, readBytes s r.1 r.2 = .ok b) : ¬ UndefinedByteSource i s := by
  rintro ⟨r, hr, a, h1, h2, hn⟩
  obtain ⟨b, hb⟩ := h r hr
  exact byteOf_ne_none_of_readBytes hb h1 h2 hn

/-- A V loop whose element `n` reads register `r + n` of each source and writes register `d + n` of each destination
alone. -/
theorem not_undefinedCoeffSource_of_forElems {i : Instr} {s u : State} {v : Bool}
    {elem : Nat → State → Except Fault State} (hv : i.vBit = v) (hspan : ∀ r ∈ i.sourceRegs, r.2 = vSpan v)
    (hread : ∀ r ∈ i.sourceRegs, ∀ n t t', elem n t = .ok t' → ∃ p, readPoly t (r.1 + n) = .ok p)
    (hwrite : ∀ n t t', elem n t = .ok t' → ∀ c,
      (∀ d ∈ i.destRegs, c < 256 * (d.1 + n) ∨ 256 * (d.1 + n) + 256 ≤ c) → readCell t'.preg c = readCell t.preg c)
    (h : forElems v elem s = .ok u) : ¬ UndefinedCoeffSource i s := by
  rintro ⟨r, hr, k, hk, hout, j, hj, hn⟩
  rw [hspan r hr] at hk
  obtain ⟨t, t', hel, hcell⟩ := forElems_ok_elem (look := fun t => coeffOf t (r.1 + k) j) h hk fun m hm t t' ht =>
    hwrite m t t' ht _ fun d hd => by
      have hvt : i.vBit = true := by
        cases v with
        | true => exact hv
        | false =>
          have : k < 1 := hk
          omega
      have := hout hvt d hd
      omega
  obtain ⟨p, hp⟩ := hread r hr k t t' hel
  exact coeffOf_ne_none_of_readPoly hp hj (hcell.trans hn)

/-! The element operations and the reads before a command's rest. -/

theorem readCell_writePoly_outside {s t : State} {n : Nat} {p : Poly} (hp : p.length = 256)
    (h : writePoly s n p = .ok t) {c : Nat} (hc : c < 256 * n ∨ 256 * n + 256 ≤ c) :
    readCell t.preg c = readCell s.preg c := by
  obtain ⟨-, rfl⟩ := writePoly_ok_iff.1 h
  exact readCell_writeCells_outside _ _ _ _ (by rw [hp]; exact hc)

theorem mapElem_ok {f : Poly → Poly} {pd pa : PReg} {n : Nat} {t t' : State} (h : mapElem f pd pa n t = .ok t') :
    ∃ a, readPoly t (pa.toNat + n) = .ok a ∧ writePoly t (pd.toNat + n) (f a) = .ok t' := except_bind_ok.1 h

theorem zipElem_ok {f : Poly → Poly → Poly} {pd pa pb : PReg} {n : Nat} {t t' : State}
    (h : zipElem f pd pa pb n t = .ok t') :
    ∃ a b, readPoly t (pa.toNat + n) = .ok a ∧ readPoly t (pb.toNat + n) = .ok b ∧
      writePoly t (pd.toNat + n) (f a b) = .ok t' := by
  obtain ⟨a, ha, h⟩ := except_bind_ok.1 h
  obtain ⟨b, hb, h⟩ := except_bind_ok.1 h
  exact ⟨a, b, ha, hb, h⟩

theorem packElem_ok {f : Poly → List Byte} {stride : Nat} {pa : PReg} {n : Nat} {t t' : State}
    (h : packElem f stride pa n t = .ok t') :
    ∃ a, readPoly t (pa.toNat + n) = .ok a ∧ writeBytes t (arg0Off t + stride * n) (f a) = .ok t' :=
  except_bind_ok.1 h

theorem unpackElem_ok {f : List Byte → Poly} {stride : Nat} {pd : PReg} {n : Nat} {t t' : State}
    (h : unpackElem f stride pd n t = .ok t') :
    ∃ b, readBytes t (arg0Off t + stride * n) stride = .ok b ∧ writePoly t (pd.toNat + n) (f b) = .ok t' :=
  except_bind_ok.1 h

theorem withBytes_eq_next {s t : State} {a len : Nat} {k : List Byte → Result} (h : withBytes s a len k = .next t) :
    ∃ b, readBytes s a len = .ok b ∧ k b = .next t := by
  unfold withBytes at h
  split at h
  · cases h
  · exact ⟨_, ‹_›, h⟩

/-! The commands, by shape. -/

theorem sourcesRead_mapElem {i : Instr} {s t : State} {v : Bool} {f : Poly → Poly} {pd pa : PReg}
    (hf : ∀ a : Poly, a.length = 256 → (f a).length = 256) (hv : i.vBit = v)
    (hs : i.sourceRegs = [(pa.toNat, vSpan v)]) (hd : i.destRegs = [(pd.toNat, vSpan v)])
    (hb : sourceRegions i s = []) (h : finish (forElems v (mapElem f pd pa) s) = .next t) : SourcesRead i s where
  coeffs := by
    obtain ⟨u, hu, -⟩ := finish_eq_next.1 h
    refine not_undefinedCoeffSource_of_forElems hv (by simp [hs]) (fun r hr n t t' ht => ?_)
      (fun n t t' ht c hc => ?_) hu <;> obtain ⟨a, ha, hw⟩ := mapElem_ok ht
    · obtain rfl : r = _ := List.mem_singleton.1 (hs ▸ hr)
      exact ⟨a, ha⟩
    · exact readCell_writePoly_outside (hf a (readPoly_length ha)) hw (hc _ (by rw [hd]; exact .head _))
  bytes := not_undefinedByteSource_of_read (by simp [hb])

theorem sourcesRead_zipElem {i : Instr} {s t : State} {v : Bool} {f : Poly → Poly → Poly} {pd pa pb : PReg}
    (hf : ∀ a b : Poly, a.length = 256 → b.length = 256 → (f a b).length = 256) (hv : i.vBit = v)
    (hs : i.sourceRegs = [(pa.toNat, vSpan v), (pb.toNat, vSpan v)]) (hd : i.destRegs = [(pd.toNat, vSpan v)])
    (hb : sourceRegions i s = []) (h : finish (forElems v (zipElem f pd pa pb) s) = .next t) : SourcesRead i s where
  coeffs := by
    obtain ⟨u, hu, -⟩ := finish_eq_next.1 h
    refine not_undefinedCoeffSource_of_forElems hv (by simp [hs]) (fun r hr n t t' ht => ?_)
      (fun n t t' ht c hc => ?_) hu <;> obtain ⟨a, b, ha, hb, hw⟩ := zipElem_ok ht
    · rw [hs] at hr
      rcases List.mem_pair.1 hr with rfl | rfl
      · exact ⟨a, ha⟩
      · exact ⟨b, hb⟩
    · exact readCell_writePoly_outside (hf a b (readPoly_length ha) (readPoly_length hb)) hw
        (hc _ (by rw [hd]; exact .head _))
  bytes := not_undefinedByteSource_of_read (by simp [hb])

theorem sourcesRead_packElem {i : Instr} {s t : State} {v : Bool} {f : Poly → List Byte} {stride : Nat} {pa : PReg}
    (hv : i.vBit = v) (hs : i.sourceRegs = [(pa.toNat, vSpan v)]) (hb : sourceRegions i s = [])
    (h : finish (forElems v (packElem f stride pa) s) = .next t) : SourcesRead i s where
  coeffs := by
    obtain ⟨u, hu, -⟩ := finish_eq_next.1 h
    refine not_undefinedCoeffSource_of_forElems hv (by simp [hs]) (fun r hr n t t' ht => ?_)
      (fun n t t' ht c _ => ?_) hu <;> obtain ⟨a, ha, hw⟩ := packElem_ok ht
    · obtain rfl : r = _ := List.mem_singleton.1 (hs ▸ hr)
      exact ⟨a, ha⟩
    · obtain ⟨-, rfl⟩ := writeBytes_ok_iff.1 hw
      rfl
  bytes := not_undefinedByteSource_of_read (by simp [hb])

/-- Byte `a` of the region is read by element `(a − ARG0) / stride`; no element writes bytes. -/
theorem sourcesRead_unpackElem {i : Instr} {s t : State} {v : Bool} {f : List Byte → Poly} {stride : Nat} {pd : PReg}
    (hs : i.sourceRegs = []) (hb : sourceRegions i s = [(arg0Off s, stride * vSpan v)])
    (h : finish (forElems v (unpackElem f stride pd) s) = .next t) : SourcesRead i s where
  coeffs := not_undefinedCoeffSource_of_read (by simp [hs])
  bytes := by
    rintro ⟨r, hr, a, h1, h2, hn⟩
    obtain rfl : r = _ := List.mem_singleton.1 (hb ▸ hr)
    simp only at h1 h2
    obtain ⟨u, hu, -⟩ := finish_eq_next.1 h
    have hk : (a - arg0Off s) / stride < vSpan v := Nat.div_lt_of_lt_mul (by omega)
    have hpos : 0 < stride := by
      rcases Nat.eq_zero_or_pos stride with rfl | hp
      · omega
      · exact hp
    have hlo := Nat.mul_div_le (a - arg0Off s) stride
    have hhi := Nat.lt_mul_div_succ (a - arg0Off s) hpos
    rw [Nat.mul_add, Nat.mul_one] at hhi
    obtain ⟨w, w', hel, hlook⟩ := forElems_ok_elem (look := fun t => (byteOf t a, arg0Off t)) hu hk
      fun m _ t t' ht => by
        obtain ⟨b, -, hw⟩ := unpackElem_ok ht
        obtain ⟨-, rfl⟩ := writePoly_ok_iff.1 hw
        rfl
    obtain ⟨hbyte, harg⟩ := Prod.mk.inj hlook
    obtain ⟨b, hread, -⟩ := unpackElem_ok hel
    rw [harg] at hread
    exact byteOf_ne_none_of_readBytes hread (by omega) (by omega) (hbyte.trans hn)

/-- A command that reads one region before anything else. -/
theorem sourcesRead_withBytes {i : Instr} {s t : State} {a len : Nat} {k : List Byte → Result}
    (hs : i.sourceRegs = []) (hb : sourceRegions i s = [(a, len)]) (h : withBytes s a len k = .next t) :
    SourcesRead i s where
  coeffs := not_undefinedCoeffSource_of_read (by simp [hs])
  bytes := by
    obtain ⟨b, hread, -⟩ := withBytes_eq_next h
    exact not_undefinedByteSource_of_read (by simp [hb, hread])

/-- A command that reads two regions before anything else. -/
theorem sourcesRead_of_twoRegions {i : Instr} {s : State} {a la b lb : Nat} {x y : List Byte}
    (hs : i.sourceRegs = []) (hb : sourceRegions i s = [(a, la), (b, lb)]) (hx : readBytes s a la = .ok x)
    (hy : readBytes s b lb = .ok y) : SourcesRead i s where
  coeffs := not_undefinedCoeffSource_of_read (by simp [hs])
  bytes := not_undefinedByteSource_of_read (by simp [hb, hx, hy])

theorem sourcesRead_withBytes_withBytes {i : Instr} {s t : State} {a la b lb : Nat}
    {k : List Byte → List Byte → Result} (hs : i.sourceRegs = []) (hb : sourceRegions i s = [(a, la), (b, lb)])
    (h : (withBytes s a la fun x => withBytes s b lb (k x)) = .next t) : SourcesRead i s := by
  obtain ⟨x, hx, h⟩ := withBytes_eq_next h
  obtain ⟨y, hy, -⟩ := withBytes_eq_next h
  exact sourcesRead_of_twoRegions hs hb hx hy

theorem sourcesRead_readBytes_readBytes {i : Instr} {s t : State} {a la b lb : Nat}
    {k : List Byte → List Byte → Except Fault State} (hs : i.sourceRegs = [])
    (hb : sourceRegions i s = [(a, la), (b, lb)])
    (h : finish (readBytes s a la >>= fun x => readBytes s b lb >>= k x) = .next t) : SourcesRead i s := by
  obtain ⟨u, hu, -⟩ := finish_eq_next.1 h
  obtain ⟨x, hx, hu⟩ := except_bind_ok.1 hu
  obtain ⟨y, hy, -⟩ := except_bind_ok.1 hu
  exact sourcesRead_of_twoRegions hs hb hx hy

theorem sourcesRead_pvacc {pd pa pb : PReg} {s t : State} (h : execPvacc pd pa pb s = .next t) :
    SourcesRead (.pvacc pd pa pb) s where
  coeffs := by
    obtain ⟨u, hu, -⟩ := finish_eq_next.1 h
    obtain ⟨a, ha, hu⟩ := except_bind_ok.1 hu
    obtain ⟨b, hb, -⟩ := except_bind_ok.1 hu
    refine not_undefinedCoeffSource_of_read fun r hr k hk => ?_
    rcases List.mem_pair.1 hr with rfl | rfl
    · exact readPoly_of_readVec ha hk
    · exact readPoly_of_readVec hb hk
  bytes := not_undefinedByteSource_of_read (by simp [sourceRegions])

theorem sourcesRead_of_noSources {i : Instr} {s : State} (hs : i.sourceRegs = []) (hb : sourceRegions i s = []) :
    SourcesRead i s :=
  ⟨not_undefinedCoeffSource_of_read (by simp [hs]), not_undefinedByteSource_of_read (by simp [hb])⟩

/-- A command that completes, or waits for HASH, has read its sources, and they were defined. -/
theorem sourcesRead_of_exec {i : Instr} {s t : State} (h : exec i s = .next t) : SourcesRead i s := by
  cases i with
  | nop | montr | barr | fqmul | bflyf | bflyi | basemul | cmov16 => exact sourcesRead_of_noSources rfl rfl
  | ntt | intt | preduce | ptomont =>
    exact sourcesRead_mapElem (fun a ha => by simp [ha]) rfl rfl rfl rfl h
  | padd | psub | pbasemul | pcmov =>
    exact sourcesRead_zipElem (fun a b ha hb => by simp [ha, hb]) rfl rfl rfl rfl h
  | pvacc => exact sourcesRead_pvacc h
  | tobytes | compress10 | compress4 | tomsg => exact sourcesRead_packElem rfl rfl rfl h
  | frombytes | decompress10 | decompress4 | frommsg | cbd2 => exact sourcesRead_unpackElem rfl rfl h
  | getnoise | genentry | genmatrix | keygen => exact sourcesRead_withBytes rfl rfl h
  | encaps | decaps => exact sourcesRead_withBytes_withBytes rfl rfl h
  | verify | cmovb => exact sourcesRead_readBytes_readBytes rfl rfl h

/-- Settles O37: a command that answers has read its sources defined, so one with an undefined source faults, and the
fault of a checked command is at an undefined source cell. -/
theorem undefinedSourceStopsTheCommand : Obligations.UndefinedSourceStopsTheCommand := by
  intro i s hc hu
  cases he : exec i s with
  | next t =>
    have hr := sourcesRead_of_exec he
    exact (hu.elim hr.coeffs hr.bytes).elim
  | fault f => exact ⟨f, rfl, ((exec_acts i s).fault hc f he).undefinedIn hc⟩
  | refused e => exact absurd he ((exec_acts i s).refused e)

/-! The CSR words and their writes (R32 to R42, R50). -/

/-- Settles O48. -/
theorem csrsReadTheirResetValues : Obligations.CsrsReadTheirResetValues :=
  ⟨by decide, rfl, fun _ _ _ => ⟨rfl, rfl⟩⟩

/-- Concatenation puts the high part above the bits of the low part. -/
theorem toNat_append_eq_add {m n : Nat} (x : BitVec m) (y : BitVec n) :
    (x ++ y).toNat = x.toNat * 2 ^ n + y.toNat := by
  rw [BitVec.toNat_append, ← Nat.shiftLeft_add_eq_or_of_lt y.isLt, Nat.shiftLeft_eq]

/-- Settles O49: the word's fields stand side by side, so it is their weighted sum. -/
theorem statusWordHasItsFields : Obligations.StatusWordHasItsFields := by
  intro s
  simp only [csrRead, statusWord, State.busy, toNat_append_eq_add, BitVec.toNat_ofBool]
  cases s.errcode <;> simp [ErrCode.bits] <;> omega

/-- A write to an operand CSR or CTFLAG of an idle block, as a step. -/
theorem step_operandWrite {s t : State} {a : BitVec 16} (k : Nat) {d : Word} {rest : List Event} (hk : k < 16)
    (ha : a.toNat = 4 * k) (h : s.events = .write a d :: rest) (hr : s.rstN = true) (hn : s.pend = none)
    (hw : csrWrite k d { s with events := rest } = writeOperand { s with events := rest } { t with events := rest }) :
    step s = .next { t with events := rest, resp := some ⟨none, false⟩ } :=
  step_csrWrite hk ha h hr (hw.trans (writeOperand_idle (s := { s with events := rest }) hn _))

/-- A write to a read-only or reserved CSR word, as a step. -/
theorem step_ignoredWrite {s : State} {a : BitVec 16} (k : Nat) {d : Word} {rest : List Event} (hk : k < 16)
    (ha : a.toNat = 4 * k) (h : s.events = .write a d :: rest) (hr : s.rstN = true)
    (hw : ∀ t : State, csrWrite k d t = (t, writeOk)) :
    step s = .next { s with events := rest, resp := some ⟨none, false⟩ } :=
  step_csrWrite hk ha h hr (hw _)

/-- CTFLAG reads back bit 0 of what was written (R41). -/
theorem zeros_append_ofBool_getLsbD_zero (d : Word) : (0#31 ++ BitVec.ofBool (d.getLsbD 0) : Word) = d &&& 1 := by
  apply BitVec.eq_of_toNat_eq
  rw [toNat_append_eq_add, BitVec.toNat_ofBool, BitVec.toNat_and]
  rcases Nat.mod_two_eq_zero_or_one d.toNat with h | h <;> simp [BitVec.getLsbD, h]

/-- Settles O50. -/
theorem csrWritesReadBackOrAreIgnored : Obligations.CsrWritesReadBackOrAreIgnored := by
  intro s d rest hr
  constructor
  · intro hn c hc he
    simp only [List.mem_cons, List.not_mem_nil, or_false] at hc
    rcases hc with rfl | rfl | rfl | rfl | rfl | rfl | rfl
    · exact ⟨step_operandWrite 5 (by omega) rfl he hr hn rfl, rfl⟩
    · exact ⟨step_operandWrite 6 (by omega) rfl he hr hn rfl, rfl⟩
    · exact ⟨step_operandWrite 7 (by omega) rfl he hr hn rfl, rfl⟩
    · exact ⟨step_operandWrite 8 (by omega) rfl he hr hn rfl, rfl⟩
    · exact ⟨step_operandWrite 9 (by omega) rfl he hr hn rfl, rfl⟩
    · exact ⟨step_operandWrite 10 (by omega) rfl he hr hn rfl, rfl⟩
    · exact ⟨step_operandWrite 13 (by omega) rfl he hr hn rfl, zeros_append_ofBool_getLsbD_zero d⟩
  · intro a ha he
    simp only [List.mem_cons, List.not_mem_nil, or_false] at ha
    rcases ha with rfl | rfl | rfl | rfl | rfl | rfl
    · exact step_ignoredWrite 0 (by omega) rfl he hr fun _ => rfl
    · exact step_ignoredWrite 1 (by omega) rfl he hr fun _ => rfl
    · exact step_ignoredWrite 11 (by omega) rfl he hr fun _ => rfl
    · exact step_ignoredWrite 12 (by omega) rfl he hr fun _ => rfl
    · exact step_ignoredWrite 14 (by omega) rfl he hr fun _ => rfl
    · exact step_ignoredWrite 15 (by omega) rfl he hr fun _ => rfl

/-- Settles O51: STATUS is CSR word 3, and its write is `ackStatus`. -/
theorem statusWriteClearsByOnes : Obligations.StatusWriteClearsByOnes := by
  intro s d rest hr he
  have hclear (b c : Bool) : (if c then false else b) = (b && !c) := by cases c <;> simp
  simp only [hclear]
  exact step_csrWrite (k := 3) (by omega) rfl he hr rfl

end Sys2Proof.Machine
end


section
/-! PROOFS. The memory and the host bus (spec/20_memory.md): what the window map serves and refuses, the words of each
window, and the HASH port: when a command waits, and what is public of its requests. -/

namespace Sys2Proof.Machine

/-! A transaction as a step, from what the bus answers (R81). -/

theorem step_read_ok {s : State} {a : BitVec 16} {r : BusResp} {rest : List Event} (he : s.events = .read a :: rest)
    (hr : s.rstN = true) (h : hostRead a { s with events := rest } = .ok r) :
    step s = .next { s with events := rest, resp := some r } := by
  rw [step_read he hr, h]

theorem step_read_error {s : State} {a : BitVec 16} {f : Fault} {rest : List Event}
    (he : s.events = .read a :: rest) (hr : s.rstN = true) (h : hostRead a { s with events := rest } = .error f) :
    step s = .fault f := by
  rw [step_read he hr, h]

theorem step_write_of_hostWrite {s t : State} {a : BitVec 16} {d : Word} {r : BusResp} {rest : List Event}
    (he : s.events = .write a d :: rest) (hr : s.rstN = true)
    (h : hostWrite a d { s with events := rest } = (t, r)) : step s = .next { t with resp := some r } := by
  rw [step_write he hr, h]

/-! What the bus answers, by target (R82 to R91). -/

theorem hostRead_refused {a : BitVec 16} (h : target a = .misaligned ∨ target a = .unmapped) (s : State) :
    hostRead a s = .ok readErr := by
  unfold hostRead
  rcases h with h | h <;> rw [h]

theorem hostWrite_refused {a : BitVec 16} (h : target a = .misaligned ∨ target a = .unmapped) (d : Word) (s : State) :
    hostWrite a d s = (s, writeErr) := by
  unfold hostWrite
  rcases h with h | h <;> rw [h]

theorem hostRead_csr {a : BitVec 16} {k : Nat} (h : target a = .csr k) (s : State) :
    hostRead a s = .ok (readOk (csrRead k s)) := by
  rw [hostRead, h]

theorem hostRead_zrom {a : BitVec 16} {w : Nat} (h : target a = .zrom w) (s : State) :
    hostRead a s = .ok (readOk (zromRead w)) := by
  rw [hostRead, h]

theorem hostWrite_zrom {a : BitVec 16} {w : Nat} (h : target a = .zrom w) (d : Word) (s : State) :
    hostWrite a d s = (s, writeErr) := by
  rw [hostWrite, h]

theorem busy_eq_false {s : State} (h : s.pend = none) : s.busy = false := by
  simp [State.busy, h]

theorem busy_eq_true {s : State} (h : s.pend ≠ none) : s.busy = true := Option.isSome_iff_ne_none.2 h

theorem hostRead_busy {a : BitVec 16} {w : Nat} {s : State} (h : target a = .bmem w ∨ target a = .preg w)
    (hp : s.pend ≠ none) : hostRead a s = .ok readErr := by
  unfold hostRead
  rcases h with h | h <;> rw [h] <;> exact if_pos (busy_eq_true hp)

theorem hostWrite_busy {a : BitVec 16} {w : Nat} {s : State} (h : target a = .bmem w ∨ target a = .preg w)
    (hp : s.pend ≠ none) (d : Word) : hostWrite a d s = (s, writeErr) := by
  unfold hostWrite
  rcases h with h | h <;> rw [h] <;> exact if_pos (busy_eq_true hp)

theorem hostRead_bmem {a : BitVec 16} {w : Nat} {s : State} (h : target a = .bmem w) (hp : s.pend = none) :
    hostRead a s = (bmemRead w s).map readOk := by
  simp [hostRead, h, busy_eq_false hp]

theorem hostWrite_bmem {a : BitVec 16} {w : Nat} {s : State} (h : target a = .bmem w) (hp : s.pend = none)
    (d : Word) : hostWrite a d s = (bmemWrite w d s, writeOk) := by
  simp [hostWrite, h, busy_eq_false hp]

theorem hostRead_preg {a : BitVec 16} {w : Nat} {s : State} (h : target a = .preg w) (hp : s.pend = none) :
    hostRead a s = (pregRead w s).map readOk := by
  simp [hostRead, h, busy_eq_false hp]

theorem hostWrite_preg {a : BitVec 16} {w : Nat} {s : State} (h : target a = .preg w) (hp : s.pend = none)
    (d : Word) : hostWrite a d s = (pregWrite w d s, writeOk) := by
  simp [hostWrite, h, busy_eq_false hp]

/-! Refused accesses (R82, R83, R88, R50). -/

/-- Settles O42: such an address selects no window, whichever of the two reasons comes first. -/
theorem misalignedAndUnmappedAccessesAreRefused : Obligations.MisalignedAndUnmappedAccessesAreRefused := by
  intro s a d rest hr ha
  have ht : target a = .misaligned ∨ target a = .unmapped := by
    by_cases h4 : a.toNat % 4 = 0
    · exact .inr (target_unmapped h4 (ha.resolve_left (not_not_intro h4)))
    · exact .inl (target_misaligned h4)
  exact ⟨fun he => step_read_ok he hr (hostRead_refused ht _),
    fun he => step_write_of_hostWrite he hr (hostWrite_refused ht d _)⟩

/-- The aligned addresses of the two data windows select a word of BMEM or of PREG. -/
theorem target_dataWindow {a : BitVec 16} (h4 : a.toNat % 4 = 0)
    (h : (0x2000 ≤ a.toNat ∧ a.toNat < 0x4000) ∨ (0x8000 ≤ a.toNat ∧ a.toNat < 0xC000)) :
    ∃ w, target a = .bmem w ∨ target a = .preg w := by
  rcases h with h | h
  · exact ⟨(a.toNat - 0x2000) / 4, .inl (target_bmem (by omega) (by omega))⟩
  · exact ⟨(a.toNat - 0x8000) / 4, .inr (target_preg (by omega) (by omega))⟩

/-- The words of the operand CSRs and CTFLAG (R32). -/
def operandWords : List Nat := [5, 6, 7, 8, 9, 10, 13]

theorem operandWords_lt : ∀ k ∈ operandWords, k < 16 := by decide

theorem csrWrite_operand_busy {k : Nat} {s : State} (hk : k ∈ operandWords) (hp : s.pend ≠ none) (d : Word) :
    csrWrite k d s = (s, writeErr) := by
  simp only [operandWords, List.mem_cons, List.not_mem_nil, or_false] at hk
  rcases hk with rfl | rfl | rfl | rfl | rfl | rfl | rfl <;> exact writeOperand_busy hp _

/-- The offsets of the operand CSRs and CTFLAG. -/
theorem operandWords_of_offset {a : BitVec 16}
    (h : a ∈ [(0x014 : BitVec 16), 0x018, 0x01C, 0x020, 0x024, 0x028, 0x034]) : a.toNat / 4 ∈ operandWords := by
  simp only [List.mem_cons, List.not_mem_nil, or_false] at h
  rcases h with rfl | rfl | rfl | rfl | rfl | rfl | rfl <;> decide

/-- Settles O43: the data windows and the operand writes each ask for BUSY first. -/
theorem busyBlockLocksDataAndOperands : Obligations.BusyBlockLocksDataAndOperands := by
  intro s a d rest hr hp h4
  have hp' : State.pend { s with events := rest } ≠ none := hp
  refine ⟨fun ha he => ?_, fun ha he => ?_⟩
  · obtain ⟨w, hw⟩ := target_dataWindow h4 ha
    exact step_read_ok he hr (hostRead_busy hw hp')
  · rw [← or_assoc] at ha
    rcases ha with ha | ha
    · obtain ⟨w, hw⟩ := target_dataWindow h4 ha
      exact step_write_of_hostWrite he hr (hostWrite_busy hw hp' d)
    · have hk := operandWords_of_offset ha
      exact step_csrWrite (operandWords_lt _ hk) (by omega) he hr (csrWrite_operand_busy hk hp' d)

/-! Reads of the CSRs (R91, R32). -/

/-- A host read leaves all but the response, whether RST_N is high or low (R91). -/
theorem hostReadTurn_eq_next {s t : State} {a : BitVec 16} (h : hostReadTurn a s = .next t) :
    t = { s with resp := t.resp } := by
  unfold hostReadTurn at h
  split at h
  · split at h <;> cases h
    rfl
  · cases h
    rfl

/-- An offset below the end of the address space is the address's value. -/
theorem toNat_ofNat_offset {n : Nat} (h : n < 2 ^ 16) : (BitVec.ofNat 16 n).toNat = n :=
  (BitVec.toNat_ofNat ..).trans (Nat.mod_eq_of_lt h)

/-- Settles O44: a read event is one `hostReadTurn`, and CSR word k stands at offset 4k. -/
theorem hostReadHasNoSideEffect : Obligations.HostReadHasNoSideEffect := by
  refine ⟨fun s t a rest he hs => ?_, fun s k rest hk hr he => ?_, fun s => ?_⟩
  · rw [step, turn, he] at hs
    exact hostReadTurn_eq_next hs
  · have ha : (BitVec.ofNat 16 (4 * k)).toNat = 4 * k := toNat_ofNat_offset (by omega)
    have ht : target (BitVec.ofNat 16 (4 * k)) = .csr k := by
      rw [target_csr (by omega) (by omega), ha, Nat.mul_div_cancel_left k (by omega)]
    exact step_read_ok he hr (hostRead_csr ht _)
  · refine ⟨rfl, rfl, ?_, rfl, rfl, rfl, rfl, rfl, rfl, rfl, rfl, rfl, ?_, rfl, rfl⟩
    · rw [csrRead, ctrlWord]
      cases s.ie <;> rfl
    · rw [csrRead, ctflagWord]
      cases s.ctflag <;> rfl

/-! The words of ZROM, BMEM and PREG (R84 to R86). -/

theorem coeffsWord_toNat (c0 c1 : Coef) : (coeffsWord c0 c1).toNat = c0.toNat + 2 ^ 16 * c1.toNat := by
  rw [coeffsWord, toNat_append_eq_add]
  omega

theorem bytesWord_toNat (b0 b1 b2 b3 : Byte) :
    (bytesWord b0 b1 b2 b3).toNat = b0.toNat + 2 ^ 8 * b1.toNat + 2 ^ 16 * b2.toNat + 2 ^ 24 * b3.toNat := by
  simp only [bytesWord, toNat_append_eq_add]
  omega

/-- Settles O47: neither answer looks at BUSY. -/
theorem zromWindowIsReadOnly : Obligations.ZromWindowIsReadOnly := by
  intro s w d rest hw hr
  have ht : target (BitVec.ofNat 16 (0x0100 + 4 * w)) = .zrom w := target_zrom hw (toNat_ofNat_offset (by omega))
  exact ⟨fun he => ⟨zromRead w, step_read_ok he hr (hostRead_zrom ht _), coeffsWord_toNat _ _⟩,
    fun he => step_write_of_hostWrite he hr (hostWrite_zrom ht d _)⟩

theorem wordBytes_getElem? (d : Word) {b : Nat} (hb : b < 4) : (wordBytes d)[b]? = some (d.extractLsb' (8 * b) 8) := by
  interval_cases b <;> rfl

/-- Byte b of a written word stands at 4w + b (R84). -/
theorem byteOf_bmemWrite (w : Nat) (d : Word) (s : State) {b : Nat} (hb : b < 4) :
    byteOf (bmemWrite w d s) (4 * w + b) = some (d.extractLsb' (8 * b) 8) := by
  have hl : (wordBytes d).length = 4 := rfl
  rw [byteOf, bmemWrite_bmem, readCell_writeCells, if_pos (by omega), Nat.add_sub_cancel_left, wordBytes_getElem? d hb]

theorem bmemKeptOutside_bmemWrite (w : Nat) (d : Word) (s : State) : BmemKeptOutside s (bmemWrite w d s) (4 * w) 4 :=
  fun k hk => readCell_writeCells_outside s.bmem (4 * w) (wordBytes d) k hk

theorem bmemRead_of_defined {s : State} {w : Nat} (hw : w < 2048) {b0 b1 b2 b3 : Byte}
    (h0 : byteOf s (4 * w) = some b0) (h1 : byteOf s (4 * w + 1) = some b1) (h2 : byteOf s (4 * w + 2) = some b2)
    (h3 : byteOf s (4 * w + 3) = some b3) : bmemRead w s = .ok (bytesWord b0 b1 b2 b3) := by
  have hb : readBytes s (4 * w) 4 = .ok [b0, b1, b2, b3] := by
    refine readBytes_ok_iff.2 ⟨by omega, rfl, fun j hj => ?_⟩
    interval_cases j
    · exact h0
    · exact h1
    · exact h2
    · exact h3
  rw [bmemRead, hb]
  rfl

theorem bmemRead_of_undefined {s : State} {w b : Nat} (hw : w < 2048) (hb : b < 4)
    (hn : byteOf s (4 * w + b) = none) : ∃ k, bmemRead w s = .error (.undefinedByte k) ∧ byteOf s k = none := by
  cases hread : readBytes s (4 * w) 4 with
  | ok bs => exact absurd hn (byteOf_ne_none_of_readBytes hread (by omega) (by omega))
  | error f =>
    obtain ⟨k, rfl, -, -, hk⟩ := readBytes_error hread (by omega)
    exact ⟨k, by rw [bmemRead, hread]; rfl, hk⟩

/-- Settles O45: both directions are the four cells 4w to 4w + 3 of BMEM. -/
theorem bmemWindowMovesFourBytes : Obligations.BmemWindowMovesFourBytes := by
  intro s w d rest hw hr hp
  have ht : target (BitVec.ofNat 16 (0x2000 + 4 * w)) = .bmem w := target_bmem hw (toNat_ofNat_offset (by omega))
  have hp' : State.pend { s with events := rest } = none := hp
  refine ⟨fun he => ?_, fun he => ⟨fun b0 b1 b2 b3 h0 h1 h2 h3 => ?_, ?_⟩⟩
  · exact ⟨_, step_write_of_hostWrite he hr (hostWrite_bmem ht hp' d), rfl,
      fun _ hb => byteOf_bmemWrite w d s hb, bmemKeptOutside_bmemWrite w d s⟩
  · refine ⟨_, step_read_ok he hr ?_, bytesWord_toNat b0 b1 b2 b3⟩
    rw [hostRead_bmem ht hp', bmemRead_of_defined (s := { s with events := rest }) hw h0 h1 h2 h3]
    rfl
  · rintro ⟨b, hb, hn⟩
    obtain ⟨k, hk, hnk⟩ := bmemRead_of_undefined (s := { s with events := rest }) hw hb hn
    refine ⟨k, step_read_error he hr ?_, hnk⟩
    rw [hostRead_bmem ht hp', hk]
    rfl

/-- Word 128·n + j of the PREG window is coefficient pair j of Pn (R86). -/
theorem pregWord_div_mod {n j : Nat} (hj : j < 128) : (128 * n + j) / 128 = n ∧ (128 * n + j) % 128 = j := by
  omega

theorem pregWrite_preg_pair (n : Nat) {j : Nat} (hj : j < 128) (d : Word) (s : State) :
    (pregWrite (128 * n + j) d s).preg = writeCells s.preg (256 * n + 2 * j) [lo16 d, hi16 d] := by
  obtain ⟨hdiv, hmod⟩ := pregWord_div_mod (n := n) hj
  rw [pregWrite_preg, hdiv, hmod]

/-- The lower half of a written word is coefficient 2j, the higher half 2j + 1 (R86). -/
theorem coeffOf_pregWrite (n : Nat) {j b : Nat} (hj : j < 128) (d : Word) (s : State) (hb : b < 2) :
    coeffOf (pregWrite (128 * n + j) d s) n (2 * j + b) = [lo16 d, hi16 d][b]? := by
  have hl : [lo16 d, hi16 d].length = 2 := rfl
  rw [coeffOf, pregWrite_preg_pair n hj, readCell_writeCells, if_pos (by omega), ← Nat.add_assoc,
    Nat.add_sub_cancel_left]

theorem readCell_pregWrite_outside {n j k : Nat} (hj : j < 128) (d : Word) (s : State)
    (hk : k < 256 * n + 2 * j ∨ 256 * n + 2 * j + 2 ≤ k) :
    readCell (pregWrite (128 * n + j) d s).preg k = readCell s.preg k := by
  rw [pregWrite_preg_pair n hj]
  exact readCell_writeCells_outside s.preg _ [lo16 d, hi16 d] k hk

theorem pregRead_pair (n : Nat) {j : Nat} (hj : j < 128) (s : State) :
    pregRead (128 * n + j) s = (readCoeffs s n (2 * j) 2).map fun c => coeffsWord (c.getD 0 0) (c.getD 1 0) := by
  obtain ⟨hdiv, hmod⟩ := pregWord_div_mod (n := n) hj
  rw [pregRead, hdiv, hmod]
  cases readCoeffs s n (2 * j) 2 <;> rfl

theorem pregRead_of_defined {s : State} {n j : Nat} (hj : j < 128) {c0 c1 : Coef}
    (h0 : coeffOf s n (2 * j) = some c0) (h1 : coeffOf s n (2 * j + 1) = some c1) :
    pregRead (128 * n + j) s = .ok (coeffsWord c0 c1) := by
  have hc : readCoeffs s n (2 * j) 2 = .ok [c0, c1] := by
    refine readCoeffs_ok_iff.2 ⟨rfl, fun k hk => ?_⟩
    interval_cases k
    · exact h0
    · exact h1
  rw [pregRead_pair n hj, hc]
  rfl

theorem pregRead_of_undefined {s : State} {n j b : Nat} (hj : j < 128) (hb : b < 2)
    (hn : coeffOf s n (2 * j + b) = none) :
    ∃ k, pregRead (128 * n + j) s = .error (.undefinedCoeff n k) ∧ coeffOf s n k = none := by
  rw [pregRead_pair n hj]
  cases hread : readCoeffs s n (2 * j) 2 with
  | ok cs =>
    obtain ⟨hl, hcs⟩ := readCoeffs_ok_iff.1 hread
    rw [hcs b hb] at hn
    exact absurd (List.getElem?_eq_none_iff.1 hn) (by omega)
  | error f =>
    obtain ⟨k, rfl, hlo, hhi, hk⟩ := readCoeffs_error hread
    obtain ⟨i, rfl⟩ : ∃ i, k = 256 * n + i := ⟨k - 256 * n, by omega⟩
    refine ⟨i, ?_, hk⟩
    rw [show (256 * n + i) / 256 = n by omega, show (256 * n + i) % 256 = i by omega]
    rfl

/-- Settles O46: the address selects word 128·n + j, which is the two cells 256·n + 2j and 256·n + 2j + 1. -/
theorem pregWindowMovesTwoCoefficients : Obligations.PregWindowMovesTwoCoefficients := by
  intro s n j d rest hn hj hr hp
  have ht : target (BitVec.ofNat 16 (0x8000 + 512 * n + 4 * j)) = .preg (128 * n + j) :=
    target_preg (by omega) ((toNat_ofNat_offset (by omega)).trans (by omega))
  have hp' : State.pend { s with events := rest } = none := hp
  refine ⟨fun he => ?_, fun he => ⟨fun c0 c1 h0 h1 => ?_, ?_⟩⟩
  · exact ⟨_, step_write_of_hostWrite he hr (hostWrite_preg ht hp' d), rfl,
      coeffOf_pregWrite n hj d s (b := 0) (by omega), coeffOf_pregWrite n hj d s (b := 1) (by omega),
      fun k h0 h1 => readCell_pregWrite_outside hj d s (by omega)⟩
  · refine ⟨_, step_read_ok he hr ?_, coeffsWord_toNat c0 c1⟩
    rw [hostRead_preg ht hp', pregRead_of_defined (s := { s with events := rest }) hj h0 h1]
    rfl
  · rintro ⟨b, hb, hnb⟩
    obtain ⟨k, hk, hnk⟩ := pregRead_of_undefined (s := { s with events := rest }) hj hb hnb
    refine ⟨k, step_read_error he hr ?_, hnk⟩
    rw [hostRead_preg ht hp', hk]
    rfl

/-! The bytes a command reads before it asks HASH (R93, R333, R346). -/

/-- A checked command reads every one of its defined source regions. -/
theorem readBytes_of_sourcesDefined {i : Instr} {s : State} {a len : Nat} (hc : checkInstr i s = .ok)
    (hd : sourcesDefined i s = true) (hm : (a, len) ∈ sourceRegions i s) :
    readBytes s a len = .ok (inputBytes s a len) := by
  simp only [sourcesDefined, Bool.and_eq_true, List.all_eq_true] at hd
  have hdef : regionDefined s (a, len) = true := hd.2 _ hm
  simp only [regionDefined, List.all_eq_true, List.mem_range] at hdef
  obtain ⟨b, hb⟩ := readBytes_of_defined (regions_ok hc (by simp [regions, hm])) hdef
  rw [inputBytes, hb]

theorem inputBytes_length {i : Instr} {s : State} {a len : Nat} (hc : checkInstr i s = .ok)
    (hd : sourcesDefined i s = true) (hm : (a, len) ∈ sourceRegions i s) : (inputBytes s a len).length = len :=
  readBytes_length (readBytes_of_sourcesDefined hc hd hm)

theorem withBytes_of_sourcesDefined {i : Instr} {s : State} {a len : Nat} {k : List Byte → Result} {r : Result}
    (hc : checkInstr i s = .ok) (hd : sourcesDefined i s = true) (hm : (a, len) ∈ sourceRegions i s)
    (h : k (inputBytes s a len) = r) : withBytes s a len k = r := by
  rw [withBytes, readBytes_of_sourcesDefined hc hd hm]
  exact h

/-! The two waits (R100, R203, R342). -/

theorem withHash_silent {s : State} (h : s.hash = .silent) (k : Nat → Result) : withHash s k = .next s := by
  rw [withHash, h]

theorem withHash_answers {s : State} {n : Nat} (h : s.hash = .answers n) (k : Nat → Result) : withHash s k = k n := by
  rw [withHash, h]

/-- A command that reads its input bytes and asks HASH waits while its sampler has no result. -/
theorem withHash_whenSampled_none {α : Type} {s : State} {n : Nat} {r : Nat → Option α} {k : Nat → α → Result}
    (hh : s.hash = .answers n) (hr : (r n).isSome = false) :
    (withHash s fun blocks => whenSampled s (r blocks) (k blocks)) = .next s := by
  have hn : r n = none := Option.isNone_iff_eq_none.1 (Option.isSome_eq_false_iff.1 hr)
  rw [withHash_answers hh, hn]
  rfl

/-- Settles O38: each such command reads its source regions first, and then waits. -/
theorem waitingCommandChangesNothing : Obligations.WaitingCommandChangesNothing := by
  intro i s hc hd
  constructor
  · rintro hh ⟨v, pd, n, t, hi⟩
    simp only [List.mem_cons, List.not_mem_nil, or_false] at hi
    rcases hi with rfl | rfl | rfl | rfl | rfl | rfl
    iterate 4 · exact withBytes_of_sourcesDefined hc hd (.head _) (withHash_silent hh _)
    iterate 2
      · exact withBytes_of_sourcesDefined hc hd (.head _)
          (withBytes_of_sourcesDefined hc hd (.tail _ (.head _)) (withHash_silent hh _))
  · intro n hh hf
    cases i with
    | genentry | genmatrix | keygen =>
      exact withBytes_of_sourcesDefined hc hd (.head _) (withHash_whenSampled_none hh hf)
    | encaps | decaps =>
      exact withBytes_of_sourcesDefined hc hd (.head _)
        (withBytes_of_sourcesDefined hc hd (.tail _ (.head _)) (withHash_whenSampled_none hh hf))
    | _ => cases hf

/-! What is public of the HASH requests (R103, R389, R472). -/

theorem entryMessage_length (rho : List Byte) (t : Bool) (i j : Nat) :
    (entryMessage rho t i j).length = rho.length + 2 := by
  cases t <;> simp [entryMessage]

theorem genentryMessage_length (seed : List Byte) (s : State) :
    (genentryMessage seed s).length = seed.length + 2 := by
  simp [genentryMessage]

/-- Nine streams of a 32-byte seed (R346). -/
theorem matrixRequests_lengths {rho : List Byte} (h : rho.length = 32) (t : Bool) :
    (matrixRequests rho t).map HashReq.lengths = List.replicate 9 (2, 34, 0) := by
  simp [matrixRequests, HashReq.lengths, entryMessage_length, h, List.range_succ]

/-- PRF's requests on a 32-byte seed have 33-byte messages (R101). -/
theorem prfRequests_lengths {seed : List Byte} (h : seed.length = 32) (n : Nat) :
    ((List.range n).map (prfRequest seed)).map HashReq.lengths = List.replicate n (3, 33, 128) := by
  simp [prfRequest, HashReq.lengths, h, List.eq_replicate_iff]

theorem encRequests_lengths {pk coins : List Byte} (hp : pk.length = 1184) (hc : coins.length = 32) :
    (encRequests pk coins).map HashReq.lengths = List.replicate 9 (2, 34, 0) ++ List.replicate 7 (3, 33, 128) := by
  rw [encRequests, List.map_append, matrixRequests_lengths (by simp [hp]), prfRequests_lengths hc]

theorem noiseRequests_lengths {seed : List Byte} (h : seed.length = 32) (nonce : BitVec 8) (n : Nat) :
    ((List.range n).map fun k => HashReq.shake256 (seed ++ [nonce + BitVec.ofNat 8 k]) 128).map HashReq.lengths =
      List.replicate n (3, 33, 128) := by
  simp [HashReq.lengths, h, List.eq_replicate_iff]

/-- A key pair of the KEM has one of the PKE core in it (R384). -/
theorem pkeKeyGen_of_kemKeygen {H : Config.HashFns} {n : Nat} {coins : List Byte}
    (h : (kemKeygen H n coins).isSome = true) : ∃ pk skc, pkeKeyGen H n (slice coins 0 32) = some (pk, skc) := by
  cases hk : pkeKeyGen H n (slice coins 0 32) with
  | none => simp [kemKeygen, hk] at h
  | some p => exact ⟨p.1, p.2, rfl⟩

theorem keygenRequests_lengths {H : Config.HashFns} {n : Nat} {coins : List Byte} (hc : coins.length = 64)
    (h : (kemKeygen H n coins).isSome = true) :
    (keygenRequests H n coins).map HashReq.lengths = hashShape .keygen := by
  obtain ⟨pk, skc, hk⟩ := pkeKeyGen_of_kemKeygen h
  have hpk : pk.length = 1184 := (pkeKeyGen_length hk).1
  have hrho : (keygenSeeds H (slice coins 0 32)).1.length = 32 := hashG_fst_length ..
  have hsigma : (keygenSeeds H (slice coins 0 32)).2.length = 32 := hashG_snd_length ..
  simp only [keygenRequests, hk, List.map_cons, List.map_append, matrixRequests_lengths hrho,
    prfRequests_lengths hsigma, hashShape]
  simp [HashReq.lengths, hc, hpk]

theorem encapsRequests_lengths (H : Config.HashFns) {pk m : List Byte} (hp : pk.length = 1184) (hm : m.length = 32) :
    (encapsRequests H pk m).map HashReq.lengths = hashShape .encaps := by
  simp only [encapsRequests, List.map_cons, encRequests_lengths hp (hashG_snd_length ..), hashShape]
  simp [HashReq.lengths, hp, hm]

theorem decapsRequests_lengths (H : Config.HashFns) {sk c : List Byte} (hs : sk.length = 2400)
    (hc : c.length = 1088) : (decapsRequests H sk c).map HashReq.lengths = hashShape .decaps := by
  have hpk : (skPk sk).length = 1184 := by simp [skPk, hs]
  simp only [decapsRequests, List.map_cons, List.map_append, encRequests_lengths hpk (hashG_snd_length ..), hashShape]
  simp [HashReq.lengths, skH, skZ, hs, hc]

/-- The shape of a command's requests is that of its opcode: every message is made of parts of fixed length. -/
theorem hashRequests_lengths {i : Instr} {s : State} {n : Nat} (hc : checkInstr i s = .ok)
    (hd : sourcesDefined i s = true) (hf : samplersFinish n i s = true) :
    (hashRequests hashFns n i s).map HashReq.lengths = hashShape i := by
  cases i with
  | getnoise v pd nonce =>
    have hl := inputBytes_length hc hd (a := arg0Off s) (len := 32) (.head _)
    exact noiseRequests_lengths hl nonce (vSpan v)
  | genentry pd =>
    have hl := inputBytes_length hc hd (a := arg0Off s) (len := 32) (.head _)
    simp [hashRequests, hashShape, HashReq.lengths, genentryMessage_length, hl]
  | genmatrix pd t => exact matrixRequests_lengths (inputBytes_length hc hd (.head _)) t
  | keygen => exact keygenRequests_lengths (inputBytes_length hc hd (.head _)) hf
  | encaps =>
    exact encapsRequests_lengths _ (inputBytes_length hc hd (.head _)) (inputBytes_length hc hd (.tail _ (.head _)))
  | decaps =>
    exact decapsRequests_lengths _ (inputBytes_length hc hd (.head _)) (inputBytes_length hc hd (.tail _ (.head _)))
  | _ => rfl

/-- Settles O60: the shape depends on the command alone, so it is the same in both states. -/
theorem hashTrafficShapeIsPublic : Obligations.HashTrafficShapeIsPublic :=
  ⟨fun _ _ _ => hashRequests_lengths, fun _ _ _ _ _ hcs hct hds hdt hfs hft =>
    (hashRequests_lengths hcs hds hfs).trans (hashRequests_lengths hct hdt hft).symm⟩

end Sys2Proof.Machine
end

section
/-! PROOFS. The encoding (spec/30_encoding.md): the fields of a word, and which words decode to which command. -/

namespace Sys2Proof.Machine

/-! The six fields of a word (R121). -/

/-- A word is its six fields. -/
theorem word_ext_iff {w x : Word} : w = x ↔ opField w = opField x ∧ vField w = vField x ∧ pdField w = pdField x ∧
    paField w = paField x ∧ pbField w = pbField x ∧ immField w = immField x := by
  refine ⟨fun h => h ▸ ⟨rfl, rfl, rfl, rfl, rfl, rfl⟩, fun ⟨hop, hv, hpd, hpa, hpb, himm⟩ => ?_⟩
  have bit_eq {lo len : Nat} (h : w.extractLsb' lo len = x.extractLsb' lo len) (i : Nat) (hlo : lo ≤ i)
      (hhi : i < lo + len) : w.getLsbD i = x.getLsbD i := by
    have := congrArg (BitVec.getLsbD · (i - lo)) h
    simpa [BitVec.getLsbD_extractLsb', show i - lo < len by omega, show lo + (i - lo) = i by omega] using this
  refine BitVec.eq_of_getLsbD_eq fun i hi => ?_
  obtain h | h | h | h | h | h :
      i < 8 ∨ (8 ≤ i ∧ i < 13) ∨ (13 ≤ i ∧ i < 18) ∨ (18 ≤ i ∧ i < 23) ∨ i = 23 ∨ 24 ≤ i := by omega
  · exact bit_eq hop i (by omega) (by omega)
  · exact bit_eq hpd i (by omega) (by omega)
  · exact bit_eq hpa i (by omega) (by omega)
  · exact bit_eq hpb i (by omega) (by omega)
  · exact h ▸ hv
  · exact bit_eq himm i (by omega) (by omega)

section
variable (imm : BitVec 8) (v : Bool) (pb pa pd : PReg) (op : BitVec 8)

@[simp] theorem opField_word : opField (word imm v pb pa pd op) = op := Laws.EncodesOpcode.op_word ..

@[simp] theorem vField_word : vField (word imm v pb pa pd op) = v := Laws.EncodesOpcode.v_word ..

@[simp] theorem pdField_word : pdField (word imm v pb pa pd op) = pd := by
  ext i hi
  simp only [pdField, word, BitVec.getElem_extractLsb', BitVec.getLsbD_append]
  simp (disch := omega) [if_pos]

@[simp] theorem paField_word : paField (word imm v pb pa pd op) = pa := by
  ext i hi
  simp only [paField, word, BitVec.getElem_extractLsb', BitVec.getLsbD_append]
  simp (disch := omega) [if_pos]

@[simp] theorem pbField_word : pbField (word imm v pb pa pd op) = pb := by
  ext i hi
  simp only [pbField, word, BitVec.getElem_extractLsb', BitVec.getLsbD_append]
  simp (disch := omega) [if_pos]

@[simp] theorem immField_word : immField (word imm v pb pa pd op) = imm := by
  ext i hi
  simp only [immField, word, BitVec.getElem_extractLsb', BitVec.getLsbD_append]
  simp (disch := omega)

end

section
variable (w x : Word)

@[simp] theorem opField_and : opField (w &&& x) = opField w &&& opField x := BitVec.extractLsb'_and
@[simp] theorem pdField_and : pdField (w &&& x) = pdField w &&& pdField x := BitVec.extractLsb'_and
@[simp] theorem paField_and : paField (w &&& x) = paField w &&& paField x := BitVec.extractLsb'_and
@[simp] theorem pbField_and : pbField (w &&& x) = pbField w &&& pbField x := BitVec.extractLsb'_and
@[simp] theorem vField_and : vField (w &&& x) = (vField w && vField x) := BitVec.getLsbD_and
@[simp] theorem immField_and : immField (w &&& x) = immField w &&& immField x := BitVec.extractLsb'_and

end

@[simp] theorem and_byteMask (b : BitVec 8) : b &&& 0xFF#8 = b := BitVec.and_allOnes
@[simp] theorem and_pregMask (r : PReg) : r &&& 31#5 = r := BitVec.and_allOnes

/-! The used bits of each shape of command, by field (R122, R126). -/

/-- The values of `usedBits`, field by field. -/
theorem usedBits_fields :
    0x008000FF#32 = word 0 true 0 0 0 0xFF ∧ 0x00801FFF#32 = word 0 true 0 0 31 0xFF ∧
    0x0083E0FF#32 = word 0 true 0 31 0 0xFF ∧ 0x0083FFFF#32 = word 0 true 0 31 31 0xFF ∧
    0x00FFFFFF#32 = word 0 true 31 31 31 0xFF ∧ 0xFF801FFF#32 = word 0xFF true 0 0 31 0xFF ∧
    0x01801FFF#32 = word 1 true 0 0 31 0xFF ∧ 0x038000FF#32 = word 3 true 0 0 0 0xFF ∧
    0x0383FFFF#32 = word 3 true 0 31 31 0xFF := by
  decide

theorem opField_usedBits (i : Instr) : opField i.usedBits = 0xFF#8 := by
  cases i <;> simp [Instr.usedBits, usedBits_fields]

theorem vField_usedBits (i : Instr) : vField i.usedBits = true := by
  cases i <;> simp [Instr.usedBits, usedBits_fields]

theorem opField_encode (i : Instr) : opField (encode i) = i.opcode := by
  cases i <;> simp [encode]

theorem vField_encode (i : Instr) : vField (encode i) = i.vBit := by
  cases i <;> simp [encode, Instr.vBit]

/-! The two checks of R131 beside the opcode. -/

theorem noV_eq_ok_iff {w : Word} {i j : Instr} : noV w i = .ok j ↔ vField w = false ∧ i = j := by
  cases h : vField w <;> simp [noV, h]

/-- CSEL is IMM8[1:0]; its reserved values encode nothing (R127). -/
theorem and_cselMask_eq_bits_iff (imm : BitVec 8) (csel : CSel) :
    imm &&& 3#8 = csel.bits ↔ imm[1] = false ∧ (if imm[0] then CSel.f0 else .f1) = csel := by
  cases csel <;> revert imm <;> decide

theorem withCsel_eq_ok_iff {w : Word} {f : CSel → Instr} {j : Instr} :
    withCsel w f = .ok j ↔ ∃ csel : CSel, f csel = j ∧ immField w &&& 3#8 = csel.bits := by
  simp only [and_cselMask_eq_bits_iff]
  cases h : (immField w)[1] <;> simp [withCsel, h]

theorem noV_withCsel_eq_ok_iff {w : Word} {e : DecodeError} {f : CSel → Instr} {j : Instr} :
    (if vField w then .error e else withCsel w f) = .ok j ↔
      vField w = false ∧ ∃ csel : CSel, f csel = j ∧ immField w &&& 3#8 = csel.bits := by
  cases h : vField w <;> simp [withCsel_eq_ok_iff]

/-- T is IMM8[0] (R126). -/
theorem and_tMask_eq_iff (imm : BitVec 8) (t : Bool) :
    (imm &&& 1#8 = if t then 1#8 else 0#8) ↔ imm[0] = t := by
  cases t <;> revert imm <;> decide

/-! What decodes to what. -/

/-- Each arm of the decoder answers its opcode's command, in one of four shapes, or refuses. -/
theorem opcode_of_decode {w : Word} {i : Instr} (h : decode w = .ok i) : opField w = i.opcode := by
  unfold decode at h
  split at h
  all_goals
    simp only [noV_eq_ok_iff, withCsel_eq_ok_iff, noV_withCsel_eq_ok_iff, Except.ok.injEq, reduceCtorEq] at h
  any_goals obtain rfl := h
  any_goals obtain ⟨-, rfl⟩ := h
  any_goals obtain ⟨_, rfl, -⟩ := h
  any_goals obtain ⟨-, _, rfl, -⟩ := h
  all_goals exact BitVec.eq_of_toNat_eq ‹_›

/-- A word decodes to a command exactly when its used bits are the command's encoding. -/
theorem decode_eq_ok_iff {w : Word} {i : Instr} : decode w = .ok i ↔ w &&& i.usedBits = encode i := by
  by_cases hop : opField w = i.opcode
  · rw [word_ext_iff]
    cases i <;>
      simp [decode, encode, hop, Instr.opcode, Instr.usedBits, usedBits_fields, noV_eq_ok_iff, withCsel_eq_ok_iff,
        noV_withCsel_eq_ok_iff, and_tMask_eq_iff, and_assoc]
  · refine iff_of_false (fun h => hop (opcode_of_decode h)) fun h => hop ?_
    have := congrArg opField h
    rwa [opField_and, opField_usedBits, and_byteMask, opField_encode] at this

/-- An encoding has no bit outside the used ones (R134). -/
theorem encode_and_usedBits (i : Instr) : encode i &&& i.usedBits = encode i := by
  rw [word_ext_iff]
  cases i with
  | cmovb csel | cmov16 csel | pcmov _ _ _ csel =>
    cases csel <;> simp [encode, CSel.bits, Instr.usedBits, usedBits_fields]
  | genmatrix _ t => cases t <;> simp [encode, Instr.usedBits, usedBits_fields]
  | _ => simp [encode, Instr.usedBits, usedBits_fields]

/-- Settles O1: an encoding is its own used bits. -/
theorem decodeOfEncodeIsTheInstruction : Obligations.DecodeOfEncodeIsTheInstruction :=
  fun i => decode_eq_ok_iff.2 (encode_and_usedBits i)

/-- Replacing bits outside a mask does not change the bits inside it. -/
theorem merge_and_mask (w x m : Word) : (w &&& m ||| x &&& ~~~m) &&& m = w &&& m := by
  ext k hk
  cases h : m[k] <;> simp [h]

/-- Settles O3: the two words have the same used bits. -/
theorem ignoredFieldsHaveNoEffect : Obligations.IgnoredFieldsHaveNoEffect := by
  intro w x i h
  have hw : w &&& i.usedBits = encode i := decode_eq_ok_iff.1 h
  exact ⟨hw.symm, decode_eq_ok_iff.2 ((merge_and_mask w x _).trans hw)⟩

/-! The legal words (R129). -/

/-- The opcodes without a V form and without CSEL. -/
def singleOps : List (BitVec 8) :=
  [0x00, 0x01, 0x02, 0x03, 0x04, 0x05, 0x06, 0x17, 0x26, 0x27, 0x32, 0x33, 0x40, 0x50, 0x51, 0x52]

/-- The opcodes with a V form and without CSEL. -/
def vectorOps : List (BitVec 8) :=
  [0x10, 0x11, 0x12, 0x13, 0x14, 0x15, 0x16, 0x20, 0x21, 0x22, 0x23, 0x24, 0x25, 0x30, 0x31]

/-- The rows of R130, by mask. -/
theorem opTable_eq : opTable =
    singleOps.map (fun op => ⟨word 0 false 0 0 0 op, word 0 true 0 0 0 0xFF⟩) ++
    vectorOps.map (fun op => ⟨word 0 false 0 0 0 op, word 0 false 0 0 0 0xFF⟩) ++
    [0x41, 0x42].map (fun op => ⟨word 0 false 0 0 0 op, word 2 true 0 0 0 0xFF⟩) ++
    [⟨word 0 false 0 0 0 0x43, word 2 false 0 0 0 0xFF⟩] := by
  decide

/-- IMM8[1], the high bit of CSEL. -/
theorem and_two_eq_zero_iff (imm : BitVec 8) : imm &&& 2#8 = 0#8 ↔ imm[1] = false := by
  revert imm; decide

theorem legal_iff (w : Word) : legal w = true ↔
    opField w ∈ singleOps ∧ vField w = false ∨ opField w ∈ vectorOps ∨
    opField w ∈ [0x41#8, 0x42#8] ∧ vField w = false ∧ (immField w)[1] = false ∨
    opField w = 0x43#8 ∧ (immField w)[1] = false := by
  simp [legal, opTable_eq, word_ext_iff, and_two_eq_zero_iff, or_and_right, or_assoc]

/-- The V bit of the word is that of the command; it is 0 where the opcode has no V form (R124). -/
theorem vField_of_decode {w : Word} {i : Instr} (h : decode w = .ok i) : vField w = i.vBit := by
  have := congrArg vField (decode_eq_ok_iff.1 h)
  rwa [vField_and, vField_usedBits, Bool.and_true, vField_encode] at this

theorem immField_of_decode {w : Word} {i : Instr} (h : decode w = .ok i) :
    immField w &&& immField i.usedBits = immField (encode i) := by
  rw [← immField_and, decode_eq_ok_iff.1 h]

theorem legal_of_decode {w : Word} {i : Instr} (h : decode w = .ok i) : legal w = true := by
  have himm := immField_of_decode h
  rw [legal_iff, opcode_of_decode h, vField_of_decode h]
  cases i with
  | cmovb | cmov16 | pcmov =>
    have hc : (immField w)[1] = false :=
      ((and_cselMask_eq_bits_iff _ _).1 (by simpa [encode, Instr.usedBits, usedBits_fields] using himm)).1
    simp [Instr.opcode, Instr.vBit, hc]
  | _ => simp [Instr.opcode, Instr.vBit, singleOps, vectorOps]

theorem decode_of_singleOps {w : Word} (hop : opField w ∈ singleOps) (hv : vField w = false) :
    ∃ i, decode w = .ok i := by
  simp only [singleOps, List.mem_cons, List.not_mem_nil, or_false] at hop
  casesm* _ ∨ _ <;> simp [decode, noV, *]

theorem decode_of_vectorOps {w : Word} (hop : opField w ∈ vectorOps) : ∃ i, decode w = .ok i := by
  simp only [vectorOps, List.mem_cons, List.not_mem_nil, or_false] at hop
  casesm* _ ∨ _ <;> simp [decode, *]

theorem withCsel_of_even {w : Word} (hc : (immField w)[1] = false) (f : CSel → Instr) :
    ∃ i, withCsel w f = .ok i :=
  by simp [withCsel, hc]

/-- Settles O2, mask by mask. -/
theorem legalWordsMatchTheirMask : Obligations.LegalWordsMatchTheirMask := by
  intro w
  refine ⟨fun ⟨_, h⟩ => legal_of_decode h, fun h => ?_⟩
  rcases (legal_iff w).1 h with ⟨hop, hv⟩ | hop | ⟨hop, hv, hc⟩ | ⟨hop, hc⟩
  · exact decode_of_singleOps hop hv
  · exact decode_of_vectorOps hop
  · simp only [List.mem_cons, List.not_mem_nil, or_false] at hop
    rcases hop with hop | hop
    · simpa [decode, hop, hv] using withCsel_of_even hc _
    · simpa [decode, hop, hv] using withCsel_of_even hc _
  · simpa [decode, hop] using withCsel_of_even hc _

/-- Settles O4: the decoder evaluates on each word. -/
theorem writtenOutWordsDecode : Obligations.WrittenOutWordsDecode := by
  refine ⟨?_, ?_, ?_, ?_, ?_, ?_, ?_, ?_, ?_, ?_, ?_⟩ <;> decide

end Sys2Proof.Machine
end

section
/-! PROOFS. The V forms (spec/30_encoding.md R125): each is its single form run on three registers, and, for the byte
commands, at three offsets. -/

namespace Sys2Proof.Machine

/-! State changes that the cell operations do not see. -/

/-- `g` touches no cell, and commutes with writing cells. -/
structure KeepsCells (g : State → State) : Prop where
  preg : ∀ s, (g s).preg = s.preg
  bmem : ∀ s, (g s).bmem = s.bmem
  writePreg : ∀ s m, { g s with preg := m } = g { s with preg := m }
  writeBmem : ∀ s m, { g s with bmem := m } = g { s with bmem := m }

theorem keepsCells_complete : KeepsCells complete :=
  ⟨fun _ => rfl, fun _ => rfl, fun _ _ => rfl, fun _ _ => rfl⟩

theorem keepsCells_complete_restoreArg0 (a : Word) : KeepsCells fun s => complete (restoreArg0 a s) :=
  ⟨fun _ => rfl, fun _ => rfl, fun _ _ => rfl, fun _ _ => rfl⟩

section
variable {g : State → State} (hg : KeepsCells g)
include hg

theorem KeepsCells.readPoly (s : State) (n : Nat) : readPoly (g s) n = Machine.readPoly s n := by
  simp only [Machine.readPoly, readCoeffs, hg.preg]

theorem KeepsCells.readBytes (s : State) (a len : Nat) : readBytes (g s) a len = Machine.readBytes s a len := by
  simp only [Machine.readBytes, hg.bmem]

theorem KeepsCells.writePoly (s : State) (n : Nat) (p : Poly) :
    writePoly (g s) n p = (Machine.writePoly s n p).map g := by
  unfold Machine.writePoly
  split
  · rw [hg.preg, hg.writePreg]
    rfl
  · rfl

theorem KeepsCells.writeBytes (s : State) (a : Nat) (bs : List Byte) :
    writeBytes (g s) a bs = (Machine.writeBytes s a bs).map g := by
  unfold Machine.writeBytes
  split
  · rfl
  · rw [hg.bmem, hg.writeBmem]
    rfl

/-! Element i of a V form is element 0 of the single form on registers moved on by i. -/

theorem KeepsCells.mapElem {f : Poly → Poly} {pd pa pd' pa' : PReg} {i : Nat} (hd : pd'.toNat = pd.toNat + i)
    (ha : pa'.toNat = pa.toNat + i) (s : State) : mapElem f pd' pa' 0 (g s) = (Machine.mapElem f pd pa i s).map g := by
  simp only [Machine.mapElem, Nat.add_zero, hd, ha, hg.readPoly]
  cases Machine.readPoly s (pa.toNat + i) with
  | error => rfl
  | ok a => exact hg.writePoly s _ _

theorem KeepsCells.zipElem {f : Poly → Poly → Poly} {pd pa pb pd' pa' pb' : PReg} {i : Nat}
    (hd : pd'.toNat = pd.toNat + i) (ha : pa'.toNat = pa.toNat + i) (hb : pb'.toNat = pb.toNat + i) (s : State) :
    zipElem f pd' pa' pb' 0 (g s) = (Machine.zipElem f pd pa pb i s).map g := by
  simp only [Machine.zipElem, Nat.add_zero, hd, ha, hb, hg.readPoly]
  cases Machine.readPoly s (pa.toNat + i) with
  | error => rfl
  | ok a =>
    cases Machine.readPoly s (pb.toNat + i) with
    | error => rfl
    | ok b => exact hg.writePoly s _ _

theorem KeepsCells.noiseElem {H : Config.HashFns} {seed : List Byte} {pd pd' : PReg} {nonce nonce' : BitVec 8} {i : Nat}
    (hd : pd'.toNat = pd.toNat + i) (hn : nonce' = nonce + BitVec.ofNat 8 i) (s : State) :
    noiseElem H seed pd' nonce' 0 (g s) = (Machine.noiseElem H seed pd nonce i s).map g := by
  simp only [Machine.noiseElem, Nat.add_zero, BitVec.add_zero, hd, hn]
  exact hg.writePoly s _ _

theorem KeepsCells.packElem {f : Poly → List Byte} {stride : Nat} {pa pa' : PReg} {i : Nat} {s : State}
    (ha : pa'.toNat = pa.toNat + i) (h0 : arg0Off (g s) = arg0Off s + stride * i) :
    packElem f stride pa' 0 (g s) = (Machine.packElem f stride pa i s).map g := by
  simp only [Machine.packElem, Nat.add_zero, Nat.mul_zero, ha, h0, hg.readPoly]
  cases Machine.readPoly s (pa.toNat + i) with
  | error => rfl
  | ok a => exact hg.writeBytes s _ _

theorem KeepsCells.unpackElem {f : List Byte → Poly} {stride : Nat} {pd pd' : PReg} {i : Nat} {s : State}
    (hd : pd'.toNat = pd.toNat + i) (h0 : arg0Off (g s) = arg0Off s + stride * i) :
    unpackElem f stride pd' 0 (g s) = (Machine.unpackElem f stride pd i s).map g := by
  simp only [Machine.unpackElem, Nat.add_zero, Nat.mul_zero, hd, h0, hg.readBytes]
  cases Machine.readBytes s (arg0Off s + stride * i) stride with
  | error => rfl
  | ok b => exact hg.writePoly s _ _

end

/-! Three single forms in a row. -/

theorem finish_map_complete (r : Except Fault State) : finish (r.map complete) = finish r := by
  cases r <;> rfl

/-- Three runs in a row end as the V loop of their elements, when each is its element on the state the one before
left, changed by `g1` and `g2` as it may be. -/
theorem andThen_eq_finish_forElems {e : Nat → State → Except Fault State} {f1 f2 : State → Result}
    {g1 g2 : State → State} {s : State}
    (h1 : ∀ t, e 0 s = .ok t → f1 (complete t) = finish ((e 1 t).map g1))
    (h2 : ∀ t u, e 0 s = .ok t → e 1 t = .ok u → f2 (complete (g1 u)) = finish ((e 2 u).map g2)) :
    Result.andThen (Result.andThen (finish (e 0 s)) f1) f2 = finish ((forElems true e s).map g2) := by
  rw [forElems_true]
  cases h0 : e 0 s with
  | error f => rfl
  | ok t =>
    show Result.andThen (f1 (complete t)) f2 = finish ((e 1 t >>= e 2).map g2)
    rw [h1 t h0]
    cases he : e 1 t with
    | error f => rfl
    | ok u => exact h2 t u h0 he

/-- The three runs of a command whose state needs no change between them but the completion. -/
theorem finish_forElems_eq_andThen {e : Nat → State → Except Fault State} {f1 f2 : State → Result} {s : State}
    (h1 : ∀ t, e 0 s = .ok t → f1 (complete t) = finish ((e 1 t).map complete))
    (h2 : ∀ t u, e 0 s = .ok t → e 1 t = .ok u → f2 (complete u) = finish ((e 2 u).map complete)) :
    finish (forElems true e s) = Result.andThen (Result.andThen (finish (forElems false e s)) f1) f2 := by
  rw [forElems_false, andThen_eq_finish_forElems h1 h2, finish_map_complete]

/-! The registers of the second and third element, inside the register file. -/

theorem toNat_add_one {r : PReg} (hr : r.toNat ≤ 29) : (r + 1).toNat = (r + 0).toNat + 1 := by
  bv_omega

theorem toNat_add_two {r : PReg} (hr : r.toNat ≤ 29) : (r + 2).toNat = (r + 0).toNat + 2 := by
  bv_omega

/-- The one-source commands. -/
theorem mapElem_vForm (f : Poly → Poly) {pd pa : PReg} (hd : pd.toNat ≤ 29) (ha : pa.toNat ≤ 29) (s : State) :
    let single (k : PReg) (s : State) := finish (forElems false (mapElem f (pd + k) (pa + k)) s)
    finish (forElems true (mapElem f (pd + 0) (pa + 0)) s) =
      Result.andThen (Result.andThen (single 0 s) (single 1)) (single 2) :=
  finish_forElems_eq_andThen
    (fun t _ => congrArg finish (keepsCells_complete.mapElem (toNat_add_one hd) (toNat_add_one ha) t))
    fun _ u _ _ => congrArg finish (keepsCells_complete.mapElem (toNat_add_two hd) (toNat_add_two ha) u)

theorem ctflag_of_zipElem {f : Poly → Poly → Poly} {pd pa pb : PReg} {i : Nat} {s t : State}
    (h : zipElem f pd pa pb i s = .ok t) : t.ctflag = s.ctflag := by
  obtain ⟨a, b, -, -, hw⟩ := zipElem_ok h
  obtain ⟨-, rfl⟩ := writePoly_ok_iff.1 hw
  rfl

/-- The two-source commands; PCMOV's operation depends on CTFLAG, which no element changes. -/
theorem zipElem_vForm {f : State → Poly → Poly → Poly} (hf : ∀ s t : State, t.ctflag = s.ctflag → f t = f s)
    {pd pa pb : PReg} (hd : pd.toNat ≤ 29) (ha : pa.toNat ≤ 29) (hb : pb.toNat ≤ 29) (s : State) :
    let single (k : PReg) (s : State) := finish (forElems false (zipElem (f s) (pd + k) (pa + k) (pb + k)) s)
    finish (forElems true (zipElem (f s) (pd + 0) (pa + 0) (pb + 0)) s) =
      Result.andThen (Result.andThen (single 0 s) (single 1)) (single 2) := by
  refine finish_forElems_eq_andThen (fun t ht => ?_) fun t u ht hu => ?_
  · simp only [hf s (complete t) (ctflag_of_zipElem (t := t) ht)]
    exact congrArg finish
      (keepsCells_complete.zipElem (toNat_add_one hd) (toNat_add_one ha) (toNat_add_one hb) t)
  · simp only [hf s (complete u) ((ctflag_of_zipElem (t := u) hu).trans (ctflag_of_zipElem ht))]
    exact congrArg finish
      (keepsCells_complete.zipElem (toNat_add_two hd) (toNat_add_two ha) (toNat_add_two hb) u)

/-! GETNOISE: each single form reads the seed again, and finds it as it was. -/

theorem execGetnoise_of_answer {s : State} {seed : List Byte} {n : Nat} (hb : readBytes s (arg0Off s) 32 = .ok seed)
    (hh : s.hash = .answers n) (v : Bool) (pd : PReg) (nonce : BitVec 8) :
    execGetnoise v pd nonce s = finish (forElems v (noiseElem hashFns seed pd nonce) s) := by
  rw [execGetnoise, withBytes, hb]
  exact withHash_answers hh _

theorem execGetnoise_of_silent {s : State} {seed : List Byte} (hb : readBytes s (arg0Off s) 32 = .ok seed)
    (hh : s.hash = .silent) (v : Bool) (pd : PReg) (nonce : BitVec 8) : execGetnoise v pd nonce s = .next s := by
  rw [execGetnoise, withBytes, hb]
  exact withHash_silent hh _

theorem execGetnoise_of_fault {s : State} {f : Fault} (hb : readBytes s (arg0Off s) 32 = .error f)
    (v : Bool) (pd : PReg) (nonce : BitVec 8) : execGetnoise v pd nonce s = .fault f := by
  rw [execGetnoise, withBytes, hb]

/-- An element of GETNOISE leaves the seed and HASH's answer as they were. -/
theorem noiseElem_keeps {H : Config.HashFns} {seed : List Byte} {pd : PReg} {nonce : BitVec 8} {i : Nat} {s t : State}
    (h : noiseElem H seed pd nonce i s = .ok t) :
    readBytes t (arg0Off t) 32 = readBytes s (arg0Off s) 32 ∧ t.hash = s.hash := by
  obtain ⟨-, rfl⟩ := writePoly_ok_iff.1 h
  exact ⟨rfl, rfl⟩

theorem getnoise_vForm {pd : PReg} (hd : pd.toNat ≤ 29) (nonce : BitVec 8) (s : State) :
    let single (k : PReg) := execGetnoise false (pd + k) (nonce + k.setWidth 8)
    execGetnoise true (pd + 0) (nonce + (0 : PReg).setWidth 8) s =
      Result.andThen (Result.andThen (single 0 s) (single 1)) (single 2) := by
  intro single
  cases hb : readBytes s (arg0Off s) 32 with
  | error f => simp only [single, execGetnoise_of_fault hb, Result.andThen]
  | ok seed =>
    cases hh : s.hash with
    | silent => simp only [single, execGetnoise_of_silent hb hh, Result.andThen]
    | answers n =>
      simp only [single]
      rw [execGetnoise_of_answer hb hh, execGetnoise_of_answer hb hh]
      refine finish_forElems_eq_andThen (fun t ht => ?_) fun t u ht hu => ?_
      · obtain ⟨hbt, hht⟩ := noiseElem_keeps ht
        rw [execGetnoise_of_answer (s := complete t) (hbt.trans hb) (hht.trans hh)]
        exact congrArg finish (keepsCells_complete.noiseElem (toNat_add_one hd) (by simp) t)
      · obtain ⟨hbt, hht⟩ := noiseElem_keeps ht
        obtain ⟨hbu, hhu⟩ := noiseElem_keeps hu
        rw [execGetnoise_of_answer (s := complete u) ((hbu.trans hbt).trans hb) ((hhu.trans hht).trans hh)]
        exact congrArg finish (keepsCells_complete.noiseElem (toNat_add_two hd) (by simp) u)

/-- Settles O32, by the element operation of each command. -/
theorem vFormIsThreeSingleForms : Obligations.VFormIsThreeSingleForms := by
  intro s pd pa pb nonce csel hd ha hb form hform
  simp only [List.mem_cons, List.not_mem_nil, or_false] at hform
  rcases hform with rfl | rfl | rfl | rfl | rfl | rfl | rfl | rfl | rfl
  iterate 4 · exact mapElem_vForm _ hd ha s
  · exact zipElem_vForm (f := fun _ => polyAdd) (fun _ _ _ => rfl) hd ha hb s
  · exact zipElem_vForm (f := fun _ => polySub) (fun _ _ _ => rfl) hd ha hb s
  · exact zipElem_vForm (f := fun _ => polyBaseMul) (fun _ _ _ => rfl) hd ha hb s
  · refine zipElem_vForm (f := fun s => List.zipWith (maskSelect (condition csel s))) (fun s t h => ?_) hd hd ha s
    cases csel <;> simp only [condition, h]
  · exact getnoise_vForm hd nonce s

/-! The byte commands: ARG0 moves on by the stride between the elements. -/

/-- What the packing and the unpacking element have in common: they keep ARG0, and element i is element 0 on the
register and at the offset moved on by i. -/
structure StridedElem (stride : Nat) (elem : PReg → Nat → State → Except Fault State) : Prop where
  arg0 : ∀ {r i s t}, elem r i s = .ok t → t.arg0 = s.arg0
  shift : ∀ {g : State → State} {r r' : PReg} {i : Nat} {s : State}, KeepsCells g → r'.toNat = r.toNat + i →
    arg0Off (g s) = arg0Off s + stride * i → elem r' 0 (g s) = (elem r i s).map g

theorem stridedElem_packElem (f : Poly → List Byte) (stride : Nat) : StridedElem stride (packElem f stride) where
  arg0 h := by
    obtain ⟨a, -, hw⟩ := packElem_ok h
    obtain ⟨-, rfl⟩ := writeBytes_ok_iff.1 hw
    rfl
  shift hg hr h0 := hg.packElem hr h0

theorem stridedElem_unpackElem (f : List Byte → Poly) (stride : Nat) : StridedElem stride (unpackElem f stride) where
  arg0 h := by
    obtain ⟨a, -, hw⟩ := unpackElem_ok h
    obtain ⟨-, rfl⟩ := writePoly_ok_iff.1 hw
    rfl
  shift hg hr h0 := hg.unpackElem hr h0

theorem restoreArg0_restoreArg0 (a b : Word) (s : State) : restoreArg0 a (restoreArg0 b s) = restoreArg0 a s := rfl

theorem advanceArg0_complete {t : State} {a : Word} (h : t.arg0 = a) (d : Nat) :
    advanceArg0 d (complete t) = complete (restoreArg0 (a + BitVec.ofNat 32 d) t) := by
  rw [← h]
  rfl

/-- A region inside BMEM does not wrap. -/
theorem toNat_arg0_add {a : Word} {d : Nat} (h : a.toNat + d ≤ 8192) : (a + BitVec.ofNat 32 d).toNat = a.toNat + d := by
  rw [BitVec.toNat_add, BitVec.toNat_ofNat]
  omega

section
variable {stride : Nat} {elem : PReg → Nat → State → Except Fault State} (he : StridedElem stride elem) {r : PReg}
  (hr : r.toNat ≤ 29) {s : State} (h0 : s.arg0.toNat + 3 * stride ≤ 8192)
include he

theorem StridedElem.arg0_forElems {t : State} (h : forElems true (elem r) s = .ok t) : t.arg0 = s.arg0 := by
  rw [forElems_true] at h
  obtain ⟨u, hu, ht⟩ := except_bind_ok.1 h
  obtain ⟨w, hw, hu⟩ := except_bind_ok.1 hu
  rw [he.arg0 ht, he.arg0 hu, he.arg0 hw]

include hr h0

/-- The three single forms end as the V form does, but with ARG0 moved on twice. -/
theorem StridedElem.andThen_eq_finish :
    let single (k : PReg) (s : State) := finish (forElems false (elem (r + k)) s)
    let a1 := s.arg0 + BitVec.ofNat 32 stride
    let a2 := a1 + BitVec.ofNat 32 stride
    Result.andThen (Result.andThen (single 0 s) fun t => single 1 (advanceArg0 stride t))
      (fun t => single 2 (advanceArg0 stride t)) =
        finish ((forElems true (elem (r + 0)) s).map fun t => complete (restoreArg0 a2 t)) := by
  intro single a1 a2
  have ha1 : a1.toNat = s.arg0.toNat + stride := toNat_arg0_add (by omega)
  have ha2 : a2.toNat = s.arg0.toNat + stride * 2 := by
    rw [toNat_arg0_add (by omega), ha1]
    omega
  refine andThen_eq_finish_forElems (g1 := fun t => complete (restoreArg0 a1 t)) (fun t ht => ?_) fun t u ht hu => ?_
  · rw [advanceArg0_complete (he.arg0 ht)]
    refine congrArg finish (he.shift (keepsCells_complete_restoreArg0 a1) (toNat_add_one hr) ?_)
    show a1.toNat = t.arg0.toNat + stride * 1
    rw [ha1, he.arg0 ht, Nat.mul_one]
  · rw [complete_complete, advanceArg0_complete (a := a1) rfl, restoreArg0_restoreArg0]
    refine congrArg finish (he.shift (keepsCells_complete_restoreArg0 a2) (toNat_add_two hr) ?_)
    show a2.toNat = u.arg0.toNat + stride * 2
    rw [ha2, he.arg0 hu, he.arg0 ht]

/-- Putting ARG0 back makes the two equal. -/
theorem StridedElem.vForm :
    let single (k : PReg) (s : State) := finish (forElems false (elem (r + k)) s)
    finish (forElems true (elem (r + 0)) s) =
      Result.andThen (Result.andThen (Result.andThen (single 0 s)
        (fun s1 => single 1 (advanceArg0 stride s1)))
        (fun s2 => single 2 (advanceArg0 stride s2)))
        (fun t => .next (restoreArg0 s.arg0 t)) := by
  intro single
  rw [he.andThen_eq_finish hr h0]
  cases h : forElems true (elem (r + 0)) s with
  | error f => rfl
  | ok t =>
    have harg0 : t.arg0 = s.arg0 := he.arg0_forElems h
    show _ = Host.Outcome.next (complete (restoreArg0 s.arg0 t))
    rw [← harg0]
    rfl

end

/-- Settles O33, by the two element operations of the byte commands. -/
theorem stridedVFormIsThreeSingleForms : Obligations.StridedVFormIsThreeSingleForms := by
  intro s r hr form hform h0
  simp only [List.mem_cons, List.not_mem_nil, or_false] at hform
  rcases hform with rfl | rfl | rfl | rfl | rfl | rfl | rfl
  · exact (stridedElem_packElem enc12 384).vForm hr h0
  · exact (stridedElem_unpackElem dec12 384).vForm hr h0
  · exact (stridedElem_packElem comp10 320).vForm hr h0
  · exact (stridedElem_unpackElem decomp10 320).vForm hr h0
  · exact (stridedElem_packElem comp4 128).vForm hr h0
  · exact (stridedElem_unpackElem decomp4 128).vForm hr h0
  · exact (stridedElem_unpackElem cbd2 128).vForm hr h0

end Sys2Proof.Machine
end

section
/-! PROOFS. The control rules (spec/40_control.md): Check and its codes, the issue of a word, the ENGINE's turn, when a
checked command completes, and where a step stops. -/

namespace Sys2Proof.Machine

/-! Check (R202). -/

theorem check_of_decode {w : Word} {i : Instr} (h : decode w = .ok i) (s : State) : check w s = checkInstr i s := by
  rw [check, h]

theorem check_encode (i : Instr) (s : State) : check (encode i) s = checkInstr i s :=
  check_of_decode (decodeOfEncodeIsTheInstruction i) s

theorem check_of_not_legal {w : Word} (h : legal w = false) (s : State) : check w s = .illegalCmd := by
  unfold check
  cases hd : decode w with
  | error e => rfl
  | ok i => simp [legal_of_decode hd] at h

/-- Checks 2 and 3 in order, on any spelling `P` and `Q` of a register span and a byte region that leave their range. -/
theorem checkInstr_eq_ite {i : Instr} {s : State} {P Q : Prop} [Decidable P] [Decidable Q]
    (hP : (∃ r ∈ i.usedRegs, r.1 + r.2 - 1 > 31) ↔ P) (hQ : (∃ r ∈ regions i s, r.1 + r.2 > 8192) ↔ Q) :
    checkInstr i s = if P then .pregRange else if Q then .bmemRange else .ok := by
  have hwf : i.wf = true ↔ ¬ P := by
    simp only [← hP, Instr.wf, List.all_eq_true, spanOk, decide_eq_true_eq, not_exists, not_and]
    exact forall₂_congr fun r _ => by omega
  have hreg : (regions i s).all regionOk = true ↔ ¬ Q := by
    simp only [← hQ, List.all_eq_true, regionOk, decide_eq_true_eq, not_exists, not_and, Nat.not_lt]
  simp only [checkInstr, hwf, hreg, ite_not]

/-- Settles O7: an undecoded word is illegal, and a decoded one meets checks 2 and 3 in that order. -/
theorem checkReturnsTheFirstFailingCode : Obligations.CheckReturnsTheFirstFailingCode := by
  refine fun w s => ⟨fun h => check_of_not_legal h s, fun i hd => ?_⟩
  rw [check_of_decode hd, checkInstr_eq_ite Iff.rfl Iff.rfl]
  refine ⟨fun h => if_pos h, fun hwf h => ?_, fun hwf h => ?_⟩
  · rw [if_neg (by simpa using hwf), if_pos h]
  · rw [if_neg (by simpa using hwf), if_neg (by simpa using h)]

/-! Check on the commands, by the shape of their operands. -/

/-- A command without byte regions is checked by its register spans alone. -/
theorem check_encode_of_regs {i : Instr} {s : State} {P : Prop} [Decidable P] (hreg : regions i s = [])
    (hP : (∃ r ∈ i.usedRegs, r.1 + r.2 - 1 > 31) ↔ P) : check (encode i) s = if P then .pregRange else .ok := by
  rw [check_encode, checkInstr_eq_ite (Q := False) hP (by simp [hreg]), if_neg not_false]

/-- A command without register fields is checked by its byte regions alone. -/
theorem check_encode_of_regions {i : Instr} {s : State} {Q : Prop} [Decidable Q] (hregs : i.usedRegs = [])
    (hQ : (∃ r ∈ regions i s, r.1 + r.2 > 8192) ↔ Q) : check (encode i) s = if Q then .bmemRange else .ok := by
  rw [check_encode, checkInstr_eq_ite (P := False) (by simp [hregs]) hQ, if_neg not_false]

/-- A command without register fields, its byte regions in range, passes. -/
theorem check_encode_of_inRange {i : Instr} {s : State} (hregs : i.usedRegs = [])
    (hreg : ∀ r ∈ regions i s, r.1 + r.2 ≤ 8192) : check (encode i) s = .ok := by
  rw [check_encode, checkInstr_ok_iff]
  exact ⟨by simp [hregs], hreg⟩

/-- A command with one register span and one byte region. -/
theorem check_encode_of_span_region {i : Instr} {s : State} {r m a len : Nat} (hregs : i.usedRegs = [(r, m)])
    (hreg : regions i s = [(a, len)]) :
    check (encode i) s =
      if r + m - 1 > 31 then .pregRange else if a + len > 8192 then .bmemRange else .ok := by
  rw [check_encode, checkInstr_eq_ite (P := r + m - 1 > 31) (by simp [hregs]) (Q := a + len > 8192) (by simp [hreg])]

/-- A single register field is always in range. -/
theorem check_encode_of_reg_region {i : Instr} {s : State} {r : PReg} {a len : Nat}
    (hregs : i.usedRegs = [(r.toNat, 1)]) (hreg : regions i s = [(a, len)]) :
    check (encode i) s = if a + len > 8192 then .bmemRange else .ok := by
  rw [check_encode_of_span_region hregs hreg, if_neg (by omega)]

/-- The last register of a span is 2 further on in a V form, and the field itself otherwise. -/
theorem add_vSpan_sub_one (r : Nat) (v : Bool) : r + vSpan v - 1 = r + if v then 2 else 0 := by
  cases v <;> rfl

/-- Settles O8: none of these commands has a byte region, but the KEM commands, whose regions are fixed. -/
theorem rangeChecksOfRegisterCommands : Obligations.RangeChecksOfRegisterCommands := by
  intro s v pd pa pb csel last
  refine ⟨fun i hi => ?_, fun i hi => ?_, ?_, fun i hi => ?_⟩
  · simp only [List.mem_cons, List.not_mem_nil, or_false] at hi
    rcases hi with rfl | rfl | rfl | rfl | rfl
    all_goals exact check_encode_of_regs rfl (by
      simp [Instr.usedRegs, Instr.destRegs, Instr.sourceRegs, add_vSpan_sub_one, last])
  · simp only [List.mem_cons, List.not_mem_nil, or_false] at hi
    rcases hi with rfl | rfl | rfl
    all_goals exact check_encode_of_regs rfl (by
      simp [Instr.usedRegs, Instr.destRegs, Instr.sourceRegs, add_vSpan_sub_one, last])
  · have hpd : ¬ 31 < pd.toNat := by omega
    have hspan (r : PReg) : 31 < r.toNat + 2 ↔ 29 < r.toNat := by omega
    exact check_encode_of_regs rfl (by simp [Instr.usedRegs, Instr.destRegs, Instr.sourceRegs, hpd, hspan])
  · simp only [List.mem_cons, List.not_mem_nil, or_false] at hi
    rcases hi with rfl | rfl | rfl | rfl | rfl | rfl | rfl | rfl | rfl | rfl | rfl
    all_goals exact check_encode_of_inRange rfl (by
      simp [regions, sourceRegions, destRegions, pkRegion, skRegion, ctRegion, ssRegion, coinsRegion])

/-- Settles O9, by the register span and the byte regions of each command. -/
theorem rangeChecksOfByteCommands : Obligations.RangeChecksOfByteCommands := by
  intro s v t r nonce csel n strided seed pair
  refine ⟨fun i hi => ?_, fun i hi => ?_, fun i hi => ?_, ?_, fun i hi => ?_, ?_, fun i hi => ?_⟩
  · rcases List.mem_pair.1 hi with rfl | rfl <;> exact check_encode_of_span_region rfl rfl
  · rcases List.mem_pair.1 hi with rfl | rfl <;> exact check_encode_of_span_region rfl rfl
  · simp only [List.mem_cons, List.not_mem_nil, or_false] at hi
    rcases hi with rfl | rfl | rfl <;> exact check_encode_of_span_region rfl rfl
  · exact check_encode_of_span_region rfl rfl
  · simp only [List.mem_cons, List.not_mem_nil, or_false] at hi
    rcases hi with rfl | rfl | rfl <;> exact check_encode_of_reg_region rfl rfl
  · rw [check_encode_of_span_region (r := r.toNat) (m := 9) rfl rfl]
    exact if_congr (by omega) rfl rfl
  · rcases List.mem_pair.1 hi with rfl | rfl
    all_goals exact check_encode_of_regions rfl (by
      simp [regions, sourceRegions, destRegions, arg0Off, arg1Off, arg2Len, or_comm])

/-! The completion of a checked command (R204, R206). -/

theorem not_faultIn_of_sourcesDefined {i : Instr} {s : State} (hd : sourcesDefined i s = true) (f : Fault) :
    ¬ FaultIn (InRegs i.sourceRegs) (InBytes (sourceRegions i s)) s f := by
  simp only [sourcesDefined, Bool.and_eq_true, List.all_eq_true, regsDefined, regionDefined, List.mem_range] at hd
  obtain ⟨hregs, hbytes⟩ := hd
  rintro (⟨k, -, ⟨r, hr, hlo, hhi⟩, hn⟩ | ⟨k, -, ⟨r, hr, hlo, hhi⟩, hn⟩)
  · have hdef := hbytes r hr (k - r.1) (by omega)
    rw [Nat.add_sub_cancel' hlo, hn] at hdef
    cases hdef
  · have hdef := hregs r hr (k - 256 * r.1) (by omega)
    rw [Nat.add_sub_cancel' hlo, hn] at hdef
    cases hdef

/-- A checked command with its sources defined does not stop. -/
theorem exec_eq_next_of_sourcesDefined {i : Instr} {s : State} (hc : checkInstr i s = .ok)
    (hd : sourcesDefined i s = true) : ∃ t, exec i s = .next t := by
  cases he : exec i s with
  | next t => exact ⟨t, rfl⟩
  | fault f => exact absurd ((exec_acts i s).fault hc f he) (not_faultIn_of_sourcesDefined hd f)
  | refused e => exact absurd he ((exec_acts i s).refused e)

theorem completed_of_finish {t : State} {r : Except Fault State} (h : finish r = .next t) : Completed t := by
  obtain ⟨u, -, rfl⟩ := finish_eq_next.1 h
  exact completed_complete u

/-- A command that asks HASH for nothing does not wait. -/
theorem completed_of_not_usesHash {i : Instr} {s t : State} (h : usesHash i = false) (he : exec i s = .next t) :
    Completed t := by
  rcases (exec_acts i s).next t he with ⟨-, hu⟩ | ⟨u, rfl, -⟩
  · rw [h] at hu
    cases hu
  · exact completed_complete u

theorem withBytes_eq_next_of_sourcesDefined {i : Instr} {s t : State} {a len : Nat} {k : List Byte → Result}
    (h : withBytes s a len k = .next t) (hc : checkInstr i s = .ok) (hd : sourcesDefined i s = true)
    (hm : (a, len) ∈ sourceRegions i s) : k (inputBytes s a len) = .next t :=
  (withBytes_of_sourcesDefined hc hd hm rfl).symm.trans h

/-- With HASH's answer and the samplers' results at hand, a command goes on to its writes. -/
theorem completed_of_sampled {α : Type} {s t : State} {n : Nat} {r : Nat → Option α} {k : Nat → α → Result}
    (h : (withHash s fun blocks => whenSampled s (r blocks) (k blocks)) = .next t) (hh : s.hash = .answers n)
    (hr : (r n).isSome = true) (hk : ∀ x, ∃ q, k n x = finish q) : Completed t := by
  obtain ⟨x, hx⟩ := Option.isSome_iff_exists.1 hr
  obtain ⟨q, hq⟩ := hk x
  rw [withHash_answers hh, hx] at h
  exact completed_of_finish (hq.symm.trans h)

/-- Settles O36: such a command does not stop, and only the six that ask HASH could have waited. -/
theorem checkedCommandCompletes : Obligations.CheckedCommandCompletes := by
  intro i s n hc hd hh hf
  obtain ⟨t, he⟩ := exec_eq_next_of_sourcesDefined hc hd
  refine ⟨t, he, ?_⟩
  cases i with
  | getnoise =>
    have hw := withBytes_eq_next_of_sourcesDefined he hc hd (.head _)
    exact completed_of_finish ((withHash_answers hh _).symm.trans hw)
  | genentry | genmatrix | keygen =>
    have hw := withBytes_eq_next_of_sourcesDefined he hc hd (.head _)
    exact completed_of_sampled hw hh hf fun _ => ⟨_, rfl⟩
  | encaps | decaps =>
    have hw := withBytes_eq_next_of_sourcesDefined
      (withBytes_eq_next_of_sourcesDefined he hc hd (.head _)) hc hd (.tail _ (.head _))
    exact completed_of_sampled hw hh hf fun _ => ⟨_, rfl⟩
  | _ => exact completed_of_not_usesHash rfl he

/-! Where a step stops (R51, R206). -/

/-- The machine goes on, or stops at the read of a cell undefined in `s`. -/
structure StopsOnlyAtUndefined (s : State) (r : Result) : Prop where
  fault : ∀ f, r = .fault f → f.UndefinedIn s
  refused : ∀ e, r ≠ .refused e

theorem stopsOnlyAtUndefined_next (s t : State) : StopsOnlyAtUndefined s (.next t) :=
  ⟨fun _ => nofun, fun _ => nofun⟩

/-- A checked command stops only at an undefined source. -/
theorem stopsOnlyAtUndefined_exec {i : Instr} {s : State} (hc : checkInstr i s = .ok) :
    StopsOnlyAtUndefined s (exec i s) :=
  ⟨fun f hf => ((exec_acts i s).fault hc f hf).undefinedIn hc, (exec_acts i s).refused⟩

theorem engineTurn_of_pend {s : State} {w : Word} {i : Instr} (hr : s.rstN = true) (hp : s.pend = some w)
    (hd : decode w = .ok i) : engineTurn s = exec i s := by
  simp [engineTurn, hr, hp, hd]

/-- A word that passes Check is a command that does. -/
theorem decode_of_check_eq_ok {w : Word} {s : State} (h : check w s = .ok) :
    ∃ i, decode w = .ok i ∧ checkInstr i s = .ok := by
  cases hd : decode w with
  | error e => simp [check, hd] at h
  | ok i => exact ⟨i, rfl, (check_of_decode hd s).symm.trans h⟩

theorem State.Inv.engineTurn_stops {s : State} (h : s.Inv) : StopsOnlyAtUndefined s (Machine.engineTurn s) := by
  cases hp : s.pend with
  | none =>
    have ht : Machine.engineTurn s = .next s := by simp [Machine.engineTurn, hp]
    rw [ht]
    exact stopsOnlyAtUndefined_next s s
  | some w =>
    obtain ⟨-, hcheck, -, hrst⟩ := h.pend w hp
    obtain ⟨i, hd, hc⟩ := decode_of_check_eq_ok hcheck
    rw [engineTurn_of_pend hrst hp hd]
    exact stopsOnlyAtUndefined_exec hc

theorem bmemRead_error {s : State} {w : Nat} {f : Fault} (hw : w < 2048) (h : bmemRead w s = .error f) :
    f.UndefinedIn s := by
  rcases except_bind_error.1 h with h | ⟨b, -, h⟩
  · obtain ⟨k, rfl, -, hk, hn⟩ := readBytes_error h (by omega)
    exact .inl ⟨k, rfl, by omega, hn⟩
  · cases h

theorem pregRead_error {s : State} {w : Nat} {f : Fault} (hw : w < 4096) (h : pregRead w s = .error f) :
    f.UndefinedIn s := by
  rcases except_bind_error.1 h with h | ⟨c, -, h⟩
  · obtain ⟨k, rfl, -, hk, hn⟩ := readCoeffs_error h
    exact .inr ⟨k / 256, k % 256, rfl, by omega, by omega, by rw [coeffOf, Nat.div_add_mod]; exact hn⟩
  · cases h

theorem except_map_error {α β : Type} {r : Except Fault α} {g : α → β} {f : Fault} (h : r.map g = .error f) :
    r = .error f := by
  cases r with
  | error e => rw [Except.error.inj h]
  | ok x => cases h

/-- Only the two data windows hold undefined cells, and a word of theirs lies in range (R84, R86). -/
theorem hostRead_error {a : BitVec 16} {s : State} {f : Fault} (h : hostRead a s = .error f) : f.UndefinedIn s := by
  unfold hostRead at h
  cases ht : target a with
  | misaligned | csr | zrom | unmapped =>
    rw [ht] at h
    cases h
  | bmem w =>
    simp only [ht] at h
    split at h
    · cases h
    · exact bmemRead_error (target_bmem_lt ht) (except_map_error h)
  | preg w =>
    simp only [ht] at h
    split at h
    · cases h
    · exact pregRead_error (target_preg_lt ht) (except_map_error h)

theorem hostReadTurn_stops (a : BitVec 16) (s : State) : StopsOnlyAtUndefined s (hostReadTurn a s) := by
  unfold hostReadTurn
  split
  · cases h : hostRead a s with
    | ok r => exact stopsOnlyAtUndefined_next _ _
    | error f =>
      exact ⟨fun g hg => Host.Outcome.fault.inj hg ▸ hostRead_error h, fun _ => nofun⟩
  · exact stopsOnlyAtUndefined_next _ _

theorem hostWriteTurn_stops (a : BitVec 16) (d : Word) (s : State) :
    StopsOnlyAtUndefined s (hostWriteTurn a d s) := by
  unfold hostWriteTurn
  split <;> exact stopsOnlyAtUndefined_next _ _

theorem State.Inv.handle_stops {s : State} (h : s.Inv) (e : Event) : StopsOnlyAtUndefined s (Machine.handle e s) := by
  cases e with
  | read a => exact hostReadTurn_stops a s
  | write a d => exact hostWriteTurn_stops a d s
  | engine hash =>
    have ht := (h.outside s.events hash s.resp).engineTurn_stops
    exact ⟨ht.fault, ht.refused⟩
  | rstN level => exact stopsOnlyAtUndefined_next _ _

/-- Settles O41: the cells are the same once the event is taken from the list. -/
theorem stepStopsOnlyAtUndefinedCells : Obligations.StepStopsOnlyAtUndefinedCells := by
  intro s h
  rw [step, turn]
  split
  · exact ⟨h.engineTurn_stops.fault, h.engineTurn_stops.refused⟩
  · next e rest _ =>
    have ht := (h.outside rest s.hash s.resp).handle_stops e
    exact ⟨ht.fault, ht.refused⟩

/-! The issue of a word (R200, R201, R205). -/

theorem writeCmd_idle {s : State} (h : s.pend = none) (w : Word) : writeCmd w s = issue w s := by
  simp [writeCmd, busy_eq_false h]

/-- A CMD write of an idle block, as a step: CMD is CSR word 4. -/
theorem step_issue {s : State} {w : Word} {rest : List Event} (he : s.events = .write 0x010 w :: rest)
    (hr : s.rstN = true) (hp : s.pend = none) :
    step s = .next { issue w { s with events := rest } with resp := some writeOk } := by
  refine step_csrWrite (k := 4) (by omega) rfl he hr ?_
  show (writeCmd w _, writeOk) = _
  rw [writeCmd_idle (s := { s with events := rest }) hp]

/-- Settles O5: `issue` accepts or rejects, and IRQ follows DONE. -/
theorem cmdWriteIssuesTheWord : Obligations.CmdWriteIssuesTheWord := by
  intro s w rest he hr hp stored
  have hcheck : check w { s with events := rest } = check w s := check_congr w rfl rfl rfl
  rw [step_issue he hr hp, ← hcheck]
  rcases issue_cases w { s with events := rest } with ⟨hc, hi⟩ | ⟨hc, hi⟩ <;> rw [hi]
  · exact ⟨fun _ => ⟨rfl, by simp [irq]⟩, fun h => absurd hc h⟩
  · exact ⟨fun h => absurd h hc, fun _ => ⟨rfl, by simp [irq, stored, hr]⟩⟩

/-! The ENGINE's turn (R203, R208). -/

theorem step_of_no_event {s : State} (h : s.events = []) : step s = engineTurn s := by
  rw [step, turn, h]

theorem step_engine {s : State} {hash : HashTurn} {rest : List Event} (h : s.events = .engine hash :: rest) :
    step s = engineTurn { s with hash := hash, events := rest } := by
  rw [step, turn, h]
  rfl

/-- Settles O10: either way the step is an ENGINE turn. -/
theorem stepRunsThePendingCommand : Obligations.StepRunsThePendingCommand := by
  intro s w i hr hp hd
  refine ⟨fun he => ?_, fun hash rest he => ?_⟩
  · rw [step_of_no_event he, engineTurn_of_pend hr hp hd]
  · rw [step_engine he]
    exact engineTurn_of_pend (s := { s with hash := hash, events := rest }) hr hp hd

/-- Settles O12: NOP's meaning is completion alone. -/
theorem nopOnlyCompletes : Obligations.NopOnlyCompletes := fun s => (rfl : execNop s = .next (complete s))

end Sys2Proof.Machine
end

section
/-! PROOFS. The field unit (spec/41_field.md): Montgomery and Barrett reduction on integers, the butterflies in 16-bit
arithmetic, and the six scalar commands. -/

namespace Sys2Proof.Machine

/-! The `s16` arithmetic (R13). -/

theorem toInt_bounds (c : Coef) : -32768 ≤ c.toInt ∧ c.toInt ≤ 32767 :=
  ⟨c.le_toInt, Int.le_sub_one_of_lt c.toInt_lt⟩

theorem toInt_wrap16 {v : Int} (hl : -32768 ≤ v) (hu : v ≤ 32767) : (wrap16 v).toInt = v :=
  BitVec.toInt_ofInt_eq_self (by decide) hl (Int.lt_add_one_of_le hu)

theorem toInt_wrap16_emod (v : Int) : (wrap16 v).toInt % 65536 = v % 65536 := by
  rw [wrap16, BitVec.toInt_ofInt]
  exact Int.bmod_emod

@[simp] theorem wrap16_toInt (c : Coef) : wrap16 c.toInt = c := BitVec.ofInt_toInt

@[simp] theorem wrap16_add (x y : Int) : wrap16 (x + y) = wrap16 x + wrap16 y := BitVec.ofInt_add x y

@[simp] theorem wrap16_sub (x y : Int) : wrap16 (x - y) = wrap16 x - wrap16 y := by
  rw [eq_comm, sub_eq_iff_eq_add, ← wrap16_add, sub_add_cancel]

@[simp] theorem wrap16_mul (x y : Int) : wrap16 (x * y) = wrap16 x * wrap16 y := BitVec.ofInt_mul x y

theorem lo16_eq_setWidth (w : Word) : lo16 w = w.setWidth 16 := (BitVec.setWidth_eq_extractLsb' (by decide)).symm

/-- The low half of a scalar register holds the register's value mod 2^16. -/
theorem lo16_eq_wrap16 (w : Word) : lo16 w = wrap16 w.toInt := by
  rw [lo16_eq_setWidth, ← BitVec.signExtend_eq_setWidth_of_le w (by decide)]
  rfl

theorem lo16_mul (v w : Word) : lo16 (v * w) = lo16 v * lo16 w := by
  simp only [lo16_eq_setWidth]
  exact BitVec.setWidth_mul v w (by decide)

/-- The arithmetic shift of R221 and R222 is a division that rounds down. -/
theorem shiftRight_eq_div (m : Int) (n : Nat) : m >>> (n : Int) = m / 2 ^ n := by
  rw [Int.shiftRight_natCast_right, Int.shiftRight_eq_div_pow]
  norm_cast

/-! Montgomery reduction (R221, R223, R233). -/

/-- The multiple of q that Montgomery reduction takes off `a`: t of R221. -/
def montFactor (a : Int) : Coef := wrap16 (a * qinv)

theorem montFactor_eq (a : Int) : montFactor a = wrap16 a * 62209 := wrap16_mul a qinv

/-- R221's shift divides exactly: qinv·q = 1 mod 2^16. -/
theorem sub_montFactor_emod (a : Int) : (a - (montFactor a).toInt * 3329) % 65536 = 0 := by
  have ht : (montFactor a).toInt % 65536 = a * 62209 % 65536 := toInt_wrap16_emod _
  omega

theorem montR_eq (a : Int) : montR a = wrap16 ((a - (montFactor a).toInt * 3329) / 65536) :=
  congrArg wrap16 (shiftRight_eq_div _ 16)

/-- Where the quotient fits an `s16`, nothing wraps. -/
theorem toInt_montR_mul {a : Int} (hl : -2038333440 ≤ a) (hu : a ≤ 2038333440) :
    (montR a).toInt * 65536 = a - (montFactor a).toInt * 3329 := by
  have ht := toInt_bounds (montFactor a)
  have hdvd := sub_montFactor_emod a
  rw [montR_eq, toInt_wrap16 (by omega) (by omega)]
  omega

/-- In the same range Montgomery reduction multiplies by 2^−16 mod q. -/
theorem toInt_montR_congr {a : Int} (hl : -2038333440 ≤ a) (hu : a ≤ 2038333440) :
    ((montR a).toInt * 65536 - a) % 3329 = 0 := by
  have := toInt_montR_mul hl hu
  omega

/-- R233: the result lies in (−q, q) while |a| < q·2^15. -/
theorem toInt_montR_bounds {a : Int} (hl : -109084672 < a) (hu : a < 109084672) :
    -3329 < (montR a).toInt ∧ (montR a).toInt < 3329 := by
  have ht := toInt_bounds (montFactor a)
  have := toInt_montR_mul (a := a) (by omega) (by omega)
  omega

theorem toInt_mul_bounds (a b : Coef) :
    -1073741824 ≤ a.toInt * b.toInt ∧ a.toInt * b.toInt ≤ 1073741824 :=
  ⟨BitVec.le_toInt_mul_toInt, BitVec.toInt_mul_toInt_le⟩

/-- R223: fqmul is an exact division for all operands. -/
theorem toInt_fqmul_mul (a b : Coef) :
    (fqmul a b).toInt * 65536 = a.toInt * b.toInt - (montFactor (a.toInt * b.toInt)).toInt * 3329 := by
  have hab := toInt_mul_bounds a b
  exact toInt_montR_mul (by omega) (by omega)

theorem toInt_fqmul_congr (a b : Coef) : ((fqmul a b).toInt * 65536 - a.toInt * b.toInt) % 3329 = 0 := by
  have := toInt_fqmul_mul a b
  omega

/-- R223: 2^14 from the product, half of q from the factor. -/
theorem toInt_fqmul_bounds (a b : Coef) : -18048 ≤ (fqmul a b).toInt ∧ (fqmul a b).toInt ≤ 18048 := by
  have hab := toInt_mul_bounds a b
  have ht := toInt_bounds (montFactor (a.toInt * b.toInt))
  have := toInt_fqmul_mul a b
  omega

/-! Barrett reduction (R222). -/

theorem barrett_eq (a : Coef) : barrett a = wrap16 (a.toInt % 3329) := rfl

theorem toInt_barrett (a : Coef) : (barrett a).toInt = a.toInt % 3329 := by
  rw [barrett_eq, toInt_wrap16 (by omega) (by omega)]

/-- R222: before its correction, the realisation leaves a remainder of magnitude at most q/2. -/
theorem barrett_remainder_bounds {x t : Int} (hl : -32768 ≤ x) (hu : x ≤ 32767)
    (ht : t = (20159 * x + 2 ^ 25) / 2 ^ 26) : -1664 ≤ x - t * 3329 ∧ x - t * 3329 ≤ 1664 := by
  omega

theorem barrettRealised_eq (a : Coef) : barrettRealised a = barrett a := by
  obtain ⟨hl, hu⟩ := toInt_bounds a
  have ht : (20159 * a.toInt + 2 ^ 25) >>> (26 : Int) = (20159 * a.toInt + 2 ^ 25) / 2 ^ 26 := shiftRight_eq_div _ 26
  have hr := barrett_remainder_bounds hl hu rfl
  simp only [barrettRealised, barrett_eq, ht, Config.q, Nat.cast_ofNat]
  refine congrArg wrap16 ?_
  split <;> omega

/-! The butterflies and the base product (R224 to R226), in 16-bit arithmetic. -/

theorem bflyF_eq (a b z : Coef) : bflyF a b z = (a + fqmul z b, a - fqmul z b) := by
  simp [bflyF]

theorem bflyI_eq (a b z : Coef) : bflyI a b z = (barrett (a + b), fqmul z (b - a)) := by
  simp [bflyI]

theorem baseMul2_eq (a0 a1 b0 b1 z : Coef) :
    baseMul2 a0 a1 b0 b1 z = (fqmul (fqmul a1 b1) z + fqmul a0 b0, fqmul a0 b1 + fqmul a1 b0) := by
  simp [baseMul2]

/-! The scalar commands (R227 to R232). -/

theorem execBflyf_eq (s : State) : execBflyf s = .next (complete (writeSrPair
    (lo16 s.sa + fqmul (lo16 s.sz) (lo16 s.sb), lo16 s.sa - fqmul (lo16 s.sz) (lo16 s.sb)) s)) := by
  rw [execBflyf, bflyF_eq]

theorem execBflyi_eq (s : State) : execBflyi s = .next (complete (writeSrPair
    (barrett (lo16 s.sa + lo16 s.sb), fqmul (lo16 s.sz) (lo16 s.sb - lo16 s.sa)) s)) := by
  rw [execBflyi, bflyI_eq]

theorem execBasemul_eq (s : State) : execBasemul s = .next (complete (writeSrPair
    (fqmul (fqmul (hi16 s.sa) (hi16 s.sb)) (lo16 s.sz) + fqmul (lo16 s.sa) (lo16 s.sb),
      fqmul (lo16 s.sa) (hi16 s.sb) + fqmul (hi16 s.sa) (lo16 s.sb)) s)) := by
  rw [execBasemul, baseMul2_eq]

/-- Settles O13, from Montgomery reduction's exact division, its range without a wrap, and the two corner values. -/
theorem montrReducesSa : Obligations.MontrReducesSa := by
  intro s
  have ht : (s.sa * 62209).extractLsb' 0 16 = montFactor s.sa.toInt := by
    rw [montFactor_eq, ← lo16_eq_wrap16]
    exact lo16_mul s.sa 62209
  refine ⟨montR s.sa.toInt, rfl, ?_, toInt_montR_bounds, fun h => by rw [h]; decide, fun h => by rw [h]; decide⟩
  rw [ht]
  exact ⟨sub_montFactor_emod _, montR_eq _, fun hl hu => ⟨toInt_montR_mul hl hu, toInt_montR_congr hl hu⟩⟩

/-- Settles O14: the remainder is an `s16`. -/
theorem barrIsModQ : Obligations.BarrIsModQ :=
  ⟨fun s => ⟨barrett (lo16 s.sa), rfl, toInt_barrett _⟩, fun a => ⟨barrettRealised_eq a, toInt_barrett a⟩⟩

/-- Settles O15: no product of two `s16` leaves the range of `toInt_montR_mul`. -/
theorem fqmulIsTheMontgomeryProduct : Obligations.FqmulIsTheMontgomeryProduct := by
  refine ⟨fun s => rfl, fun a b => ?_⟩
  have ht : a * b * 62209 = montFactor (a.toInt * b.toInt) := by
    rw [montFactor_eq, wrap16_mul, wrap16_toInt, wrap16_toInt]
  rw [ht]
  exact ⟨toInt_fqmul_mul a b, toInt_fqmul_congr a b, toInt_fqmul_bounds a b⟩

/-- Settles O16, by the 16-bit form of each formula. -/
theorem butterfliesAndBasemulWriteBothResults : Obligations.ButterfliesAndBasemulWriteBothResults :=
  fun s => ⟨execBflyf_eq s, execBflyi_eq s, execBasemul_eq s⟩

end Sys2Proof.Machine
end

section
/-! PROOFS. The NTT unit (spec/42_ntt.md): the fixed schedules as seven stages each, the commands NTT and INTT, the
twiddle table, and what the transforms compute mod q. -/

namespace Sys2Proof.Machine

/-! The twiddles (R241, R242). -/

/-- Settles O55, by evaluating the 128 entries. -/
theorem twiddlesArePowersOfSeventeen : Obligations.TwiddlesArePowersOfSeventeen := by
  unfold Obligations.TwiddlesArePowersOfSeventeen
  decide

/-! A schedule is its stages (R243, R244). -/

/-- The lengths of the stages, in the order of the forward transform (R243). -/
def stageLens : List Nat := [128, 64, 32, 16, 8, 4, 2]

/-- Twiddle number of block b in the forward stage of length `len` (R243). -/
def indexF (len b : Nat) : Nat := 128 / len + b

/-- Twiddle number of block b in the inverse stage of length `len` (R244). -/
def indexI (len b : Nat) : Nat := 256 / len - 1 - b

/-- Butterfly number t of a stage: block t / len, position t mod len. -/
def stageButterfly (index : Nat → Nat) (len t : Nat) : Butterfly :=
  ⟨index (t / len), 2 * len * (t / len) + t % len, 2 * len * (t / len) + t % len + len⟩

theorem nttSchedule_eq : nttSchedule =
    stageLens.flatMap fun len => (List.range 128).map (stageButterfly (indexF len) len) := by
  decide +kernel

theorem inttSchedule_eq : inttSchedule =
    stageLens.reverse.flatMap fun len => (List.range 128).map (stageButterfly (indexI len) len) := by
  decide +kernel

/-- What one butterfly leaves at each number. -/
theorem coeffAt_butterflyStep {f : Coef → Coef → Coef → Coef × Coef} {r : Poly} {b : Butterfly} (h : b.hi < r.length)
    (hl : b.lo < b.hi) (j : Nat) : coeffAt (butterflyStep f r b) j =
      if j = b.hi then (f (coeffAt r b.lo) (coeffAt r b.hi) (zeta b.k)).2
      else if j = b.lo then (f (coeffAt r b.lo) (coeffAt r b.hi) (zeta b.k)).1 else coeffAt r j := by
  simp only [butterflyStep, coeffAt, List.getD_eq_getElem?_getD, List.getElem?_set, List.length_set]
  grind

/-- Number of the butterfly that works on coefficient j in a stage of length `len`. -/
def butterflyOf (len j : Nat) : Nat := len * (j / (2 * len)) + j % len

section
variable {len : Nat} (h : len ∈ stageLens) (index : Nat → Nat)
include h

theorem butterflyOf_lt {j : Nat} (hj : j < 256) : butterflyOf len j < 128 := by
  unfold butterflyOf
  fin_cases h <;> omega

theorem stageButterfly_range {t : Nat} (ht : t < 128) :
    (stageButterfly index len t).lo < (stageButterfly index len t).hi ∧ (stageButterfly index len t).hi < 256 := by
  simp only [stageButterfly]
  fin_cases h <;> omega

theorem butterflyOf_stageButterfly (t : Nat) :
    butterflyOf len (stageButterfly index len t).lo = t ∧ butterflyOf len (stageButterfly index len t).hi = t := by
  simp only [stageButterfly, butterflyOf]
  fin_cases h <;> omega

/-- The butterfly of j has j as its low or its high coefficient, by the half of the block j lies in. -/
theorem stageButterfly_butterflyOf (j : Nat) : stageButterfly index len (butterflyOf len j) =
    if j % (2 * len) < len then ⟨index (j / (2 * len)), j, j + len⟩ else ⟨index (j / (2 * len)), j - len, j⟩ := by
  simp only [stageButterfly, butterflyOf]
  have hk : (len * (j / (2 * len)) + j % len) / len = j / (2 * len) := by fin_cases h <;> omega
  rw [hk]
  split <;> simp only [Butterfly.mk.injEq, true_and] <;> fin_cases h <;> omega

end

/-- Coefficient j after a whole stage. -/
def stageCoeff (f : Coef → Coef → Coef → Coef × Coef) (index : Nat → Nat) (len : Nat) (a : Poly) (j : Nat) : Coef :=
  if j % (2 * len) < len then (f (coeffAt a j) (coeffAt a (j + len)) (zeta (index (j / (2 * len))))).1
  else (f (coeffAt a (j - len)) (coeffAt a j) (zeta (index (j / (2 * len))))).2

/-- After n butterflies of a stage, the coefficients of those n have their final values and the others their first. -/
theorem coeffAt_foldl_butterflyStep (f : Coef → Coef → Coef → Coef × Coef) (index : Nat → Nat) {len : Nat}
    (h : len ∈ stageLens) {a : Poly} (ha : a.length = 256) {n : Nat} (hn : n ≤ 128) {j : Nat} :
    coeffAt (((List.range n).map (stageButterfly index len)).foldl (butterflyStep f) a) j =
      if butterflyOf len j < n then stageCoeff f index len a j else coeffAt a j := by
  induction n generalizing j with
  | zero => rfl
  | succ n ih =>
    have ⟨hlo, hhi⟩ := butterflyOf_stageButterfly h index n
    have ⟨hlt, hr⟩ := stageButterfly_range h index (t := n) (by omega)
    rw [List.range_succ, List.map_append, List.foldl_append, List.map_singleton, List.foldl_cons, List.foldl_nil,
      coeffAt_butterflyStep (by rwa [foldl_butterflyStep_length, ha]) hlt, ih (by omega), ih (by omega), ih (by omega),
      hlo, hhi, if_neg (Nat.lt_irrefl n), if_neg (Nat.lt_irrefl n)]
    by_cases hj : butterflyOf len j = n
    · have hb := stageButterfly_butterflyOf h index j
      rw [hj] at hb
      have hpos : 0 < len := by fin_cases h <;> omega
      rw [hb, stageCoeff]
      split <;> simp [hj]; omega
    · have hjlo : j ≠ (stageButterfly index len n).lo := fun e => hj (e ▸ hlo)
      have hjhi : j ≠ (stageButterfly index len n).hi := fun e => hj (e ▸ hhi)
      have hn' : butterflyOf len j < n + 1 ↔ butterflyOf len j < n := by omega
      simp only [if_neg hjlo, if_neg hjhi, hn']

/-- A stage's 128 butterflies, one after the other, are the stage at once (R248). -/
theorem foldl_stageButterfly (f : Coef → Coef → Coef → Coef × Coef) (index : Nat → Nat) {len : Nat}
    (h : len ∈ stageLens) {a : Poly} (ha : a.length = 256) :
    ((List.range 128).map (stageButterfly index len)).foldl (butterflyStep f) a =
      (List.range 256).map (stageCoeff f index len a) := by
  refine List.ext_getElem (by simp [foldl_butterflyStep_length, ha]) fun j hj _ => ?_
  have hj' : j < 256 := by simpa [foldl_butterflyStep_length, ha] using hj
  have := coeffAt_foldl_butterflyStep f index h ha (n := 128) le_rfl (j := j)
  rw [if_pos (butterflyOf_lt h hj'), coeffAt, List.getD_eq_getElem _ _ hj] at this
  simpa using this

theorem foldl_stageButterfly_bflyF {len : Nat} (h : len ∈ stageLens) {a : Poly} (ha : a.length = 256) :
    ((List.range 128).map (stageButterfly (indexF len) len)).foldl (butterflyStep bflyF) a = nttStage a len := by
  rw [foldl_stageButterfly _ _ h ha]
  refine List.map_congr_left fun j _ => ?_
  rw [stageCoeff, bflyF_eq, bflyF_eq]
  rfl

theorem foldl_stageButterfly_bflyI {len : Nat} (h : len ∈ stageLens) {a : Poly} (ha : a.length = 256) :
    ((List.range 128).map (stageButterfly (indexI len) len)).foldl (butterflyStep bflyI) a = inttStage a len := by
  rw [foldl_stageButterfly _ _ h ha]
  refine List.map_congr_left fun j _ => ?_
  rw [stageCoeff, bflyI_eq, bflyI_eq]
  rfl

/-- Stages that agree on 256 coefficients, and keep their number, agree in a row. -/
theorem foldl_stages_congr {g g' : Poly → Nat → Poly} {lens : List Nat}
    (h : ∀ len ∈ lens, ∀ a : Poly, a.length = 256 → g a len = g' a len ∧ (g' a len).length = 256) {a : Poly}
    (ha : a.length = 256) : lens.foldl g a = lens.foldl g' a := by
  induction lens generalizing a with
  | nil => rfl
  | cons len lens ih =>
    have ⟨he, hl⟩ := h len List.mem_cons_self a ha
    rw [List.foldl_cons, List.foldl_cons, he, ih (fun x hx => h x (List.mem_cons_of_mem _ hx)) hl]

@[simp] theorem nttStage_length (a : Poly) (len : Nat) : (nttStage a len).length = 256 := by simp [nttStage]

@[simp] theorem inttStage_length (a : Poly) (len : Nat) : (inttStage a len).length = 256 := by simp [inttStage]

theorem ntt_eq_stages {a : Poly} (ha : a.length = 256) : ntt a = stageLens.foldl nttStage a := by
  rw [ntt, nttSchedule_eq, List.foldl_flatMap]
  exact foldl_stages_congr (fun _ h _ hr => ⟨foldl_stageButterfly_bflyF h hr, nttStage_length _ _⟩) ha

theorem intt_eq_stages {a : Poly} (ha : a.length = 256) :
    intt a = (stageLens.reverse.foldl inttStage a).map fun c => fqmul c 1441 := by
  rw [intt, inttSchedule_eq, List.foldl_flatMap]
  refine congrArg _ (foldl_stages_congr (fun _ h _ hr => ⟨foldl_stageButterfly_bflyI ?_ hr, inttStage_length _ _⟩) ha)
  exact List.mem_reverse.1 h

/-! The ranges of fqmul (R234). -/

theorem fqmul_comm (a b : Coef) : fqmul a b = fqmul b a := by rw [fqmul, fqmul, Int.mul_comm]

/-- Where one operand is at most q/2, fqmul lies in (−q, q) for every other operand. -/
theorem toInt_fqmul_bounds_of_le {z : Coef} (hl : -1664 ≤ z.toInt) (hu : z.toInt ≤ 1664) (c : Coef) :
    -3329 < (fqmul z c).toInt ∧ (fqmul z c).toInt < 3329 := by
  obtain ⟨hcl, hcu⟩ := toInt_bounds c
  exact toInt_montR_bounds (by nlinarith) (by nlinarith)

theorem toInt_intt_bounds {a : Poly} : ∀ c ∈ intt a, -3329 < c.toInt ∧ c.toInt < 3329 := by
  intro c hc
  obtain ⟨x, -, rfl⟩ := List.mem_map.1 hc
  rw [fqmul_comm]
  exact toInt_fqmul_bounds_of_le (by decide) (by decide) x

/-! The commands NTT and INTT (R245, R246). -/

/-- What a one-source command leaves: P[pd] has the value computed, and nothing else has changed. -/
theorem finish_mapElem_writes {s : State} {pd pa : PReg} {f : Poly → Poly} {a : Poly}
    (h : readPoly s pa.toNat = .ok a) (hf : (f a).length = 256) :
    ∃ t, finish (forElems false (mapElem f pd pa) s) = .next t ∧ readPoly t pd.toNat = .ok (f a) ∧ Completed t ∧
      ControlKept s t ∧ ResultsKept s t ∧ PregKeptOutside s t pd.toNat 1 ∧ ∀ k, byteOf t k = byteOf s k := by
  obtain ⟨u, hu⟩ : ∃ u, writePoly s pd.toNat (f a) = .ok u := ⟨_, writePoly_ok_iff.2 ⟨pd.isLt, rfl⟩⟩
  have he : forElems false (mapElem f pd pa) s = .ok u := except_bind_ok.2 ⟨a, h, hu⟩
  have hread : readPoly (complete u) pd.toNat = .ok (f a) := (readPoly_writePoly_self hf hu : readPoly u _ = _)
  refine ⟨complete u, finish_eq_next.2 ⟨u, he, rfl⟩, hread, completed_complete u, ?_⟩
  have hout : PregKeptOutside s (complete u) pd.toNat 1 := fun _ hk => readCell_writePoly_outside hf hu hk
  obtain ⟨-, rfl⟩ := writePoly_ok_iff.1 hu
  exact ⟨by simp [ControlKept], ⟨rfl, rfl, rfl⟩, hout, fun _ => rfl⟩

theorem exec_ntt (v : Bool) (pd pa : PReg) (s : State) :
    exec (.ntt v pd pa) s = finish (forElems v (mapElem ntt pd pa) s) := rfl

theorem exec_intt (v : Bool) (pd pa : PReg) (s : State) :
    exec (.intt v pd pa) s = finish (forElems v (mapElem intt pd pa) s) := rfl

/-- Settles O17: both commands map one register to another, and each schedule is its stages. -/
theorem transformsWriteTheirDestination : Obligations.TransformsWriteTheirDestination := by
  refine ⟨fun s pd pa a h => ⟨?_, toInt_intt_bounds⟩, fun a ha => ⟨ntt_eq_stages ha, intt_eq_stages ha⟩⟩
  have hl := readPoly_length h
  simp only [List.forall_mem_cons, exec_ntt, exec_intt]
  exact ⟨finish_mapElem_writes h (by rw [ntt_length, hl]), finish_mapElem_writes h (by rw [intt_length, hl]),
    List.forall_mem_nil _⟩

/-! Values mod q. -/

/-- Z_q (R9). -/
abbrev Fq : Type := ZMod 3329

theorem emod_sub_eq_zero_iff (x y : Int) : (x - y) % 3329 = 0 ↔ (x : Fq) = y := by
  rw [← Int.dvd_iff_emod_eq_zero, eq_comm, ZMod.intCast_eq_intCast_iff_dvd_sub]
  rfl

theorem cast_list_sum_range (n : Nat) (g : Nat → Int) :
    ((((List.range n).map g).sum : Int) : Fq) = ∑ j ∈ Finset.range n, (g j : Fq) := by
  rw [← Int.cast_sum]
  rfl

/-- 2^−16 = 169 mod q: the factor Montgomery reduction leaves (R221). -/
theorem montgomery_cancel : (169 * 65536 : Fq) = 1 := by decide

theorem cast_fqmul (a b : Coef) : ((fqmul a b).toInt : Fq) = 169 * (a.toInt * b.toInt) := by
  have h := (emod_sub_eq_zero_iff _ _).1 (toInt_fqmul_congr a b)
  push_cast at h
  linear_combination 169 * h - ((fqmul a b).toInt : Fq) * montgomery_cancel

theorem cast_barrett (a : Coef) : ((barrett a).toInt : Fq) = a.toInt := by
  rw [toInt_barrett]
  exact ZMod.intCast_mod a.toInt 3329

theorem toInt_add_of_le {a b : Coef} (hl : -32768 ≤ a.toInt + b.toInt) (hu : a.toInt + b.toInt ≤ 32767) :
    (a + b).toInt = a.toInt + b.toInt := by
  rw [← toInt_wrap16 hl hu, wrap16_add, wrap16_toInt, wrap16_toInt]

theorem toInt_sub_of_le {a b : Coef} (hl : -32768 ≤ a.toInt - b.toInt) (hu : a.toInt - b.toInt ≤ 32767) :
    (a - b).toInt = a.toInt - b.toInt := by
  rw [← toInt_wrap16 hl hu, wrap16_sub, wrap16_toInt, wrap16_toInt]

/-! The roots of the transform (R9, R242). The blocks of the stages are the nodes of a binary tree: node 1 is the whole
polynomial, and the halves of node n are 2n and 2n + 1. -/

/-- The twiddle 17^brv7(n) as an element of Z_q. -/
def twiddle (n : Nat) : Fq := 17 ^ brv7 n

/-- Node n holds residues modulo X^len − root n, where len is the length of its block. -/
def root (n : Nat) : Fq := if n % 2 = 0 then twiddle (n / 2) else -twiddle (n / 2)

theorem root_double (n : Nat) : root (2 * n) = twiddle n := by
  rw [root, if_pos (by omega), Nat.mul_div_cancel_left n (by decide)]

theorem root_double_add_one (n : Nat) : root (2 * n + 1) = -twiddle n := by
  rw [root, if_neg (by omega), show (2 * n + 1) / 2 = n by omega]

theorem zeta_bounds {n : Nat} (hn : n < 128) : -1664 ≤ (zeta n).toInt ∧ (zeta n).toInt ≤ 1664 :=
  (twiddlesArePowersOfSeventeen n hn).2

theorem cast_zeta {n : Nat} (hn : n < 128) : ((zeta n).toInt : Fq) = twiddle n * 65536 := by
  have h := (emod_sub_eq_zero_iff _ _).1 (twiddlesArePowersOfSeventeen n hn).1
  push_cast at h
  exact h

/-- A stage splits X^(2·len) − root n into X^len − twiddle n and X^len + twiddle n. -/
theorem twiddle_sq {n : Nat} (h1 : 1 ≤ n) (hn : n < 128) : twiddle n ^ 2 = root n := by
  revert h1; revert n
  decide +kernel

/-- The twiddle of a block in an inverse stage is the negated inverse of its twiddle in the forward one. -/
theorem twiddle_indexI_mul_indexF {len b : Nat} (h : len ∈ stageLens) (hb : b < 128 / len) :
    twiddle (indexI len b) * twiddle (indexF len b) = -1 := by
  revert hb; revert b; revert h; revert len
  decide +kernel

/-- The last stage leaves residues modulo X^2 − 17^(2·brv7(i)+1) (R243). -/
theorem root_leaf {i : Nat} (hi : i < 128) : root (128 + i) = 17 ^ (2 * brv7 i + 1) := by
  revert hi; revert i
  decide +kernel

/-! The pairs of a stage: a low coefficient p and its partner p + len, in one block. -/

theorem getD_map_range (g : Nat → Coef) {j : Nat} (hj : j < 256) : ((List.range 256).map g).getD j 0 = g j := by
  rw [List.getD_eq_getElem _ _ (by simpa using hj), List.getElem_map, List.getElem_range]

/-- p is the low coefficient of a pair. -/
def IsLow (len p : Nat) : Prop := p + len < 256 ∧ p % (2 * len) < len

theorem IsLow.lt {len p : Nat} (hp : IsLow len p) : p < 256 := Nat.lt_of_add_right_lt hp.1

section
variable {len : Nat} (h : len ∈ stageLens)
include h

/-- The pairs of a stage cover all coefficients. -/
theorem forall_of_pairs {P : Nat → Prop} (hP : ∀ p, IsLow len p → P p ∧ P (p + len)) (j : Nat) (hj : j < 256) :
    P j := by
  by_cases hl : j % (2 * len) < len
  · refine (hP j ⟨?_, hl⟩).1
    fin_cases h <;> omega
  · have hlow : IsLow len (j - len) ∧ j - len + len = j := by
      unfold IsLow
      fin_cases h <;> omega
    exact hlow.2 ▸ (hP (j - len) hlow.1).2

variable {p : Nat} (hp : IsLow len p)
include hp

/-- The partner is a high coefficient of the same block. -/
theorem IsLow.high : ¬ (p + len) % (2 * len) < len ∧ (p + len) / (2 * len) = p / (2 * len) := by
  obtain ⟨-, hlow⟩ := hp
  fin_cases h <;> omega

theorem IsLow.block_lt : p / (2 * len) < 128 / len := by
  obtain ⟨hlt, -⟩ := hp
  fin_cases h <;> omega

theorem IsLow.index_range : 1 ≤ indexF len (p / (2 * len)) ∧ indexF len (p / (2 * len)) < 128 ∧
    indexI len (p / (2 * len)) < 128 := by
  have hb := hp.block_lt h
  unfold indexF indexI
  fin_cases h <;> omega

theorem nttStage_getD (a : Poly) :
    (nttStage a len).getD p 0 = a.getD p 0 + fqmul (zeta (indexF len (p / (2 * len)))) (a.getD (p + len) 0) ∧
    (nttStage a len).getD (p + len) 0 =
      a.getD p 0 - fqmul (zeta (indexF len (p / (2 * len)))) (a.getD (p + len) 0) := by
  obtain ⟨hhigh, hblock⟩ := hp.high h
  obtain ⟨hlt, hlow⟩ := hp
  rw [nttStage, getD_map_range _ (by omega), getD_map_range _ hlt, if_pos hlow, if_neg hhigh, hblock,
    Nat.add_sub_cancel]
  exact ⟨rfl, rfl⟩

theorem inttStage_getD (a : Poly) :
    (inttStage a len).getD p 0 = barrett (a.getD p 0 + a.getD (p + len) 0) ∧
    (inttStage a len).getD (p + len) 0 =
      fqmul (zeta (indexI len (p / (2 * len)))) (a.getD (p + len) 0 - a.getD p 0) := by
  obtain ⟨hhigh, hblock⟩ := hp.high h
  obtain ⟨hlt, hlow⟩ := hp
  rw [inttStage, getD_map_range _ (by omega), getD_map_range _ hlt, if_pos hlow, if_neg hhigh, hblock,
    Nat.add_sub_cancel]
  exact ⟨rfl, rfl⟩

end

/-! The forward transform over Z_q. -/

/-- A forward stage over Z_q (R243). -/
def forwardStage (f : Nat → Fq) (len j : Nat) : Fq :=
  if j % (2 * len) < len then f j + twiddle (indexF len (j / (2 * len))) * f (j + len)
  else f (j - len) - twiddle (indexF len (j / (2 * len))) * f j

/-- The forward transform over Z_q. -/
def forward (f : Nat → Fq) : Nat → Fq := stageLens.foldl forwardStage f

theorem forwardStage_pair {len p : Nat} (h : len ∈ stageLens) (hp : IsLow len p) (f : Nat → Fq) :
    forwardStage f len p = f p + twiddle (indexF len (p / (2 * len))) * f (p + len) ∧
    forwardStage f len (p + len) = f p - twiddle (indexF len (p / (2 * len))) * f (p + len) := by
  obtain ⟨hhigh, hblock⟩ := hp.high h
  rw [forwardStage, forwardStage, if_pos hp.2, if_neg hhigh, hblock, Nat.add_sub_cancel]
  exact ⟨rfl, rfl⟩

/-- Coefficient j mod len of the residue of f modulo X^len − root n, for the node n of j's block of length `len`. -/
def residue (f : Nat → Fq) (len j : Nat) : Fq :=
  ∑ i ∈ Finset.range (256 / len), f (len * i + j % len) * root (256 / len + j / len) ^ i

theorem sum_range_two_mul {M : Type} [AddCommMonoid M] (m : Nat) (g : Nat → M) :
    ∑ i ∈ Finset.range (2 * m), g i = ∑ i ∈ Finset.range m, (g (2 * i) + g (2 * i + 1)) := by
  induction m with
  | zero => rfl
  | succ m ih => rw [Nat.mul_succ, Finset.sum_range_succ, Finset.sum_range_succ, ih, Finset.sum_range_succ, add_assoc]

/-- The even and the odd terms of a residue are residues modulo the square. -/
theorem residue_split (f : Nat → Fq) (x : Fq) (m len o : Nat) :
    ∑ i ∈ Finset.range (2 * m), f (len * i + o) * x ^ i =
      ∑ i ∈ Finset.range m, f (2 * len * i + o) * (x ^ 2) ^ i +
        x * ∑ i ∈ Finset.range m, f (2 * len * i + (o + len)) * (x ^ 2) ^ i := by
  rw [sum_range_two_mul, Finset.sum_add_distrib, Finset.mul_sum]
  congr 1 <;> refine Finset.sum_congr rfl fun i _ => ?_
  · rw [← pow_mul, ← Nat.mul_assoc, Nat.mul_comm len]
  · rw [← pow_mul, show len * (2 * i + 1) + o = 2 * len * i + (o + len) by ring]
    ring

section
variable {len p : Nat} (h : len ∈ stageLens) (hp : IsLow len p) (f : Nat → Fq)
include h hp

/-- The node of a pair's block, and the place of the pair in it. -/
theorem IsLow.residue_node : let n := indexF len (p / (2 * len))
    residue f (2 * len) p = ∑ i ∈ Finset.range (128 / len), f (2 * len * i + p % len) * root n ^ i ∧
    residue f (2 * len) (p + len) =
      ∑ i ∈ Finset.range (128 / len), f (2 * len * i + (p % len + len)) * root n ^ i := by
  obtain ⟨-, hblock⟩ := hp.high h
  obtain ⟨-, hlow⟩ := hp
  have hm : 256 / (2 * len) = 128 / len := by fin_cases h <;> rfl
  have hpos : p % (2 * len) = p % len ∧ (p + len) % (2 * len) = p % len + len := by fin_cases h <;> omega
  rw [residue, residue, hm, hblock, hpos.1, hpos.2]
  exact ⟨rfl, rfl⟩

/-- Of the halves of that node, the first holds the low coefficient and the second its partner, at the same place. -/
theorem IsLow.residue_halves : let n := indexF len (p / (2 * len))
    residue f len p = ∑ i ∈ Finset.range (2 * (128 / len)), f (len * i + p % len) * twiddle n ^ i ∧
    residue f len (p + len) = ∑ i ∈ Finset.range (2 * (128 / len)), f (len * i + p % len) * (-twiddle n) ^ i := by
  intro n
  obtain ⟨-, hlow⟩ := hp
  have hm : 256 / len = 2 * (128 / len) := by fin_cases h <;> rfl
  have hnode : 256 / len + p / len = 2 * n ∧ 256 / len + (p + len) / len = 2 * n + 1 := by
    simp only [n, indexF]
    fin_cases h <;> omega
  have hpos : (p + len) % len = p % len := Nat.add_mod_right p len
  rw [residue, residue, hnode.1, hnode.2, hpos, hm, root_double, root_double_add_one]
  exact ⟨rfl, rfl⟩

end

/-- A stage takes the residues of a node to those of its two halves. -/
theorem forwardStage_residue {len : Nat} (h : len ∈ stageLens) {f g : Nat → Fq}
    (hg : ∀ j, j < 256 → g j = residue f (2 * len) j) : ∀ j, j < 256 → forwardStage g len j = residue f len j := by
  refine forall_of_pairs h fun p hp => ?_
  obtain ⟨hn1, hn2, -⟩ := hp.index_range h
  obtain ⟨hnode1, hnode2⟩ := hp.residue_node h f
  obtain ⟨hhalf1, hhalf2⟩ := hp.residue_halves h f
  obtain ⟨hs1, hs2⟩ := forwardStage_pair h hp g
  rw [hs1, hs2, hhalf1, hhalf2, residue_split, residue_split, neg_sq, twiddle_sq hn1 hn2, hg p hp.lt, hg (p + len) hp.1,
    hnode1, hnode2]
  exact ⟨rfl, by ring⟩

/-- R243: the forward transform is the residues modulo X^2 − root, one pair for each leaf. -/
theorem forward_eq_residue (f : Nat → Fq) : ∀ j, j < 256 → forward f j = residue f 2 j := by
  have step {len : Nat} (h : len ∈ stageLens) {g : Nat → Fq} (hg : ∀ j, j < 256 → g j = residue f (2 * len) j) :=
    forwardStage_residue h hg
  have h256 : ∀ j, j < 256 → f j = residue f 256 j := fun j hj => by
    simp [residue, Nat.mod_eq_of_lt hj]
  exact step (by decide) <| step (len := 4) (by decide) <| step (len := 8) (by decide) <|
    step (len := 16) (by decide) <| step (len := 32) (by decide) <| step (len := 64) (by decide) <|
      step (len := 128) (by decide) h256

/-! Coefficients that stand for elements of Z_q within a bound (R234). -/

/-- The coefficient c has magnitude at most B and the value x mod q. -/
structure Represents (B : Int) (c : Coef) (x : Fq) : Prop where
  lower : -B ≤ c.toInt
  upper : c.toInt ≤ B
  value : (c.toInt : Fq) = x

/-- A polynomial's 256 coefficients represent f, each within B. -/
def PolyRepresents (B : Int) (a : Poly) (f : Nat → Fq) : Prop := ∀ j, j < 256 → Represents B (a.getD j 0) (f j)

namespace Represents

variable {B C : Int} {a b : Coef} {x y : Fq}

theorem congr (h : Represents B a x) (he : x = y) : Represents B a y := he ▸ h

theorem mono (h : Represents B a x) (hBC : B ≤ C) : Represents C a x where
  lower := by have := h.lower; omega
  upper := by have := h.upper; omega
  value := h.value

theorem add (ha : Represents B a x) (hb : Represents C b y) (hBC : B + C ≤ 32767) :
    Represents (B + C) (a + b) (x + y) := by
  obtain ⟨hal, hau, rfl⟩ := ha
  obtain ⟨hbl, hbu, rfl⟩ := hb
  have h := toInt_add_of_le (a := a) (b := b) (by omega) (by omega)
  exact ⟨by omega, by omega, by rw [h]; push_cast; rfl⟩

theorem sub (ha : Represents B a x) (hb : Represents C b y) (hBC : B + C ≤ 32767) :
    Represents (B + C) (a - b) (x - y) := by
  obtain ⟨hal, hau, rfl⟩ := ha
  obtain ⟨hbl, hbu, rfl⟩ := hb
  have h := toInt_sub_of_le (a := a) (b := b) (by omega) (by omega)
  exact ⟨by omega, by omega, by rw [h]; push_cast; rfl⟩

theorem neg (h : Represents B a x) (hB : B ≤ 32767) : Represents B (-a) (-x) := by
  have hzero : Represents 0 0 0 := ⟨by decide, by decide, by decide⟩
  simpa only [zero_add, zero_sub] using hzero.sub h (by omega)

/-- Barrett reduction leaves [0, q) (R222). -/
theorem barrett (h : Represents B a x) : Represents 3328 (Machine.barrett a) x where
  lower := by rw [toInt_barrett]; omega
  upper := by rw [toInt_barrett]; omega
  value := (cast_barrett a).trans h.value

theorem fqmul (hb : Represents B b y) (ha : Represents 1664 a x) :
    Represents 3328 (Machine.fqmul a b) (169 * (x * y)) := by
  have hf := toInt_fqmul_bounds_of_le ha.lower ha.upper b
  exact ⟨by omega, by omega, by rw [cast_fqmul, ha.value, hb.value]⟩

/-- The product of two reduced values lies in (−q, q) (R233). -/
theorem fqmul_reduced (ha : Represents 3328 a x) (hb : Represents 3328 b y) :
    Represents 3328 (Machine.fqmul a b) (169 * (x * y)) := by
  obtain ⟨hal, hau, rfl⟩ := ha
  obtain ⟨hbl, hbu, rfl⟩ := hb
  have hf : -3329 < (Machine.fqmul a b).toInt ∧ (Machine.fqmul a b).toInt < 3329 :=
    toInt_montR_bounds (by nlinarith) (by nlinarith)
  exact ⟨by omega, by omega, cast_fqmul a b⟩

end Represents

theorem represents_zeta {n : Nat} (hn : n < 128) : Represents 1664 (zeta n) (twiddle n * 65536) :=
  ⟨(zeta_bounds hn).1, (zeta_bounds hn).2, cast_zeta hn⟩

theorem Represents.fqmul_zeta {B : Int} {c : Coef} {x : Fq} (h : Represents B c x) {n : Nat} (hn : n < 128) :
    Represents 3328 (Machine.fqmul (zeta n) c) (twiddle n * x) :=
  (h.fqmul (represents_zeta hn)).congr (by linear_combination (twiddle n * x) * montgomery_cancel)

/-- Half of q from the Montgomery factor and a quarter of it from the product: a stage adds at most 2080 (R234). -/
theorem Represents.fqmul_zeta_of_le {B : Int} {c : Coef} {x : Fq} (h : Represents B c x) (hB : B ≤ 16383) {n : Nat}
    (hn : n < 128) : Represents 2080 (Machine.fqmul (zeta n) c) (twiddle n * x) := by
  have hm := toInt_bounds (montFactor ((zeta n).toInt * c.toInt))
  have he := toInt_fqmul_mul (zeta n) c
  obtain ⟨hzl, hzu⟩ := zeta_bounds hn
  have hcl := h.lower
  have hcu := h.upper
  have hp : -27261312 ≤ (zeta n).toInt * c.toInt ∧ (zeta n).toInt * c.toInt ≤ 27261312 :=
    ⟨by nlinarith, by nlinarith⟩
  exact ⟨by omega, by omega, (h.fqmul_zeta hn).value⟩

/-! The transforms on represented values. -/

section
variable {B : Int} {len : Nat} {a : Poly} {f : Nat → Fq} (h : len ∈ stageLens)
include h

theorem nttStage_represents (ha : PolyRepresents B a f) (hB : B ≤ 16383) :
    PolyRepresents (B + 2080) (nttStage a len) (forwardStage f len) := by
  refine forall_of_pairs h fun p hp => ?_
  obtain ⟨-, hn, -⟩ := hp.index_range h
  have hlow := ha p hp.lt
  have hhigh := (ha (p + len) hp.1).fqmul_zeta_of_le hB hn
  rw [(nttStage_getD h hp a).1, (nttStage_getD h hp a).2, (forwardStage_pair h hp f).1, (forwardStage_pair h hp f).2]
  exact ⟨hlow.add hhigh (by omega), hlow.sub hhigh (by omega)⟩

/-- The butterfly of the inverse stage undoes that of the forward one up to the factor 2, where its sum and its
difference do not wrap. -/
theorem inttStage_represents {c : Fq}
    (ha : ∀ p, IsLow len p → Represents B (a.getD p 0 + a.getD (p + len) 0) (2 * c * f p) ∧
      Represents B (a.getD (p + len) 0 - a.getD p 0)
        (-(2 * c * (twiddle (indexF len (p / (2 * len))) * f (p + len))))) :
    PolyRepresents 3328 (inttStage a len) fun j => 2 * c * f j := by
  refine forall_of_pairs h fun p hp => ?_
  obtain ⟨-, -, hn⟩ := hp.index_range h
  obtain ⟨hsum, hdiff⟩ := ha p hp
  have hinv := twiddle_indexI_mul_indexF h (hp.block_lt h)
  rw [(inttStage_getD h hp a).1, (inttStage_getD h hp a).2]
  exact ⟨hsum.barrett, (hdiff.fqmul_zeta hn).congr (by linear_combination (-2 * c * f (p + len)) * hinv)⟩

theorem inttStage_undoes {c : Fq} (ha : PolyRepresents B a fun j => c * forwardStage f len j) (hB : 2 * B ≤ 32767) :
    PolyRepresents 3328 (inttStage a len) fun j => 2 * c * f j := by
  refine inttStage_represents (B := B + B) h fun p hp => ?_
  obtain ⟨hf1, hf2⟩ := forwardStage_pair h hp f
  have hlow := (ha p hp.lt).congr (congrArg _ hf1)
  have hhigh := (ha (p + len) hp.1).congr (congrArg _ hf2)
  exact ⟨(hlow.add hhigh (by omega)).congr (by ring), (hhigh.sub hlow (by omega)).congr (by ring)⟩

/-- Right after the forward stage the sum is 2·a[p] and the difference −2·t in 16 bits: they stay in range although the
bound on the stage's own coefficients would let their sum wrap. -/
theorem inttStage_nttStage (ha : PolyRepresents B a f) (hB : B ≤ 16383) :
    PolyRepresents 3328 (inttStage (nttStage a len) len) fun j => 2 * f j := by
  have hmain := inttStage_represents (B := 32766) (a := nttStage a len) (f := f) (c := 1) h fun p hp => ?_
  · simpa using hmain
  obtain ⟨-, hn, -⟩ := hp.index_range h
  have hlow := (ha p hp.lt).mono hB
  have ht := (ha (p + len) hp.1).fqmul_zeta_of_le hB hn
  rw [(nttStage_getD h hp a).1, (nttStage_getD h hp a).2]
  set t := fqmul (zeta (indexF len (p / (2 * len)))) (a.getD (p + len) 0)
  rw [show a.getD p 0 + t + (a.getD p 0 - t) = a.getD p 0 + a.getD p 0 by ring,
    show a.getD p 0 - t - (a.getD p 0 + t) = -t - t by ring]
  exact ⟨(hlow.add hlow (by omega)).congr (by ring),
    (((ht.neg (by omega)).sub ht (by omega)).mono (by omega)).congr (by ring)⟩

end

/-- Each of up to seven forward stages adds at most 2080. -/
theorem foldl_nttStage_represents {lens : List Nat} (h : ∀ len ∈ lens, len ∈ stageLens) {B : Int} {a : Poly}
    {f : Nat → Fq} (ha : PolyRepresents B a f) (hB : B + 2080 * lens.length ≤ 18463) :
    PolyRepresents (B + 2080 * lens.length) (lens.foldl nttStage a) (lens.foldl forwardStage f) := by
  induction lens generalizing B a f with
  | nil => simpa using ha
  | cons len lens ih =>
    obtain ⟨hlen, hlens⟩ := List.forall_mem_cons.1 h
    rw [List.length_cons, Nat.cast_succ] at hB ⊢
    have := ih hlens (nttStage_represents hlen ha (by omega)) (by omega)
    rwa [show B + 2080 + 2080 * (lens.length : Int) = B + 2080 * (lens.length + 1) by ring] at this

/-- The inverse stages undo the forward ones in reverse order. -/
theorem foldl_inttStage_undoes {lens : List Nat} (h : ∀ len ∈ lens, len ∈ stageLens) {B : Int} {a : Poly} {f : Nat → Fq}
    {c : Fq} (ha : PolyRepresents B a fun j => c * lens.foldl forwardStage f j) (hl : 3328 ≤ B) (hB : 2 * B ≤ 32767) :
    PolyRepresents B (lens.reverse.foldl inttStage a) fun j => 2 ^ lens.length * c * f j := by
  induction lens using List.reverseRecOn generalizing a c with
  | nil => simpa using ha
  | append_singleton lens len ih =>
    obtain ⟨hlens, hlen⟩ := List.forall_mem_append.1 h
    simp only [List.foldl_append, List.foldl_cons, List.foldl_nil] at ha
    have hstep := inttStage_undoes (hlen len List.mem_cons_self) ha hB
    have := ih hlens (fun j hj => (hstep j hj).mono hl)
    simpa [pow_succ, mul_assoc] using this

theorem getD_map_of_zero {g : Coef → Coef} (hg : g 0 = 0) (a : Poly) (j : Nat) :
    (a.map g).getD j 0 = g (a.getD j 0) := by
  have h := List.getD_map (l := a) (n := j) (d := 0) g
  rwa [hg] at h

/-- The last step of the inverse transform multiplies by 1441·2^−16 (R244). -/
theorem map_fqmul_represents {B : Int} {a : Poly} {f : Nat → Fq} (ha : PolyRepresents B a f) :
    PolyRepresents 3328 (a.map fun c => fqmul c 1441) fun j => 169 * (1441 * f j) := by
  intro j hj
  rw [getD_map_of_zero (g := fun c => fqmul c 1441) (by decide), fqmul_comm]
  exact (ha j hj).fqmul ⟨by decide, by decide, by decide⟩

/-- The values of a polynomial mod q. -/
def values (a : Poly) (j : Nat) : Fq := (a.getD j 0).toInt

/-- Coefficients in (−q, q) represent themselves. -/
theorem polyRepresents_values {a : Poly} (ha : a.length = 256) (h : ∀ c ∈ a, -3329 < c.toInt ∧ c.toInt < 3329) :
    PolyRepresents 3328 a (values a) := by
  intro j hj
  have hc := h (a.getD j 0) (by rw [List.getD_eq_getElem _ _ (by omega)]; exact List.getElem_mem _)
  exact ⟨by omega, by omega, rfl⟩

/-- R234, R243: the forward transform keeps 16 bits and is the transform over Z_q. -/
theorem ntt_represents {a : Poly} (ha : a.length = 256) {f : Nat → Fq} (h : PolyRepresents 3328 a f) :
    PolyRepresents 17888 (ntt a) (forward f) := by
  rw [ntt_eq_stages ha]
  exact foldl_nttStage_represents (fun _ h => h) h (by decide)

/-- R244: the inverse transform of a represented forward transform, with its factor 2^16. -/
theorem intt_represents {B : Int} {a : Poly} (ha : a.length = 256) {c : Fq} {f : Nat → Fq}
    (h : PolyRepresents B a fun j => c * forward f j) (hl : 3328 ≤ B) (hB : 2 * B ≤ 32767) :
    PolyRepresents 3328 (intt a) fun j => 65536 * (c * f j) := by
  rw [intt_eq_stages ha]
  have hconst : (169 * (1441 * 2 ^ 7) : Fq) = 65536 := by decide
  intro j hj
  refine (map_fqmul_represents (foldl_inttStage_undoes (fun _ h => h) h hl hB) j hj).congr ?_
  rw [show stageLens.length = 7 from rfl]
  linear_combination (c * f j) * hconst

/-- R247 item 1. The last forward stage is undone in 16 bits, the six before it on values below q. -/
theorem intt_ntt_represents {a : Poly} (ha : a.length = 256) {f : Nat → Fq} (h : PolyRepresents 3328 a f) :
    PolyRepresents 3328 (intt (ntt a)) fun j => 65536 * f j := by
  have hsub : ∀ len ∈ [128, 64, 32, 16, 8, 4], len ∈ stageLens := by decide
  have h6 := foldl_nttStage_represents hsub h (by decide)
  have h7 := inttStage_nttStage (len := 2) (by decide) h6 (by decide)
  have h1 := foldl_inttStage_undoes hsub h7 le_rfl (by decide)
  have hconst : (169 * (1441 * (2 ^ 6 * 2)) : Fq) = 65536 := by decide
  rw [intt_eq_stages (by rw [ntt_length, ha]), ntt_eq_stages ha,
    show stageLens = [128, 64, 32, 16, 8, 4] ++ [2] from rfl, List.reverse_concat, List.foldl_concat, List.foldl_cons]
  intro j hj
  refine (map_fqmul_represents h1 j hj).congr ?_
  rw [show [128, 64, 32, 16, 8, 4].length = 6 from rfl]
  linear_combination f j * hconst

/-! The product of two residues (R226, R261, R269). -/

/-- The negacyclic product of f and g: the coefficients of f·g modulo X^n + 1 (R247). -/
def negacyclic {S : Type} [CommRing S] (n : Nat) (f g : Nat → S) (j : Nat) : S :=
  ∑ i ∈ Finset.range n, if i ≤ j then f i * g (j - i) else -(f i * g (n + j - i))

/-- Evaluation at an n-th root of −1 is multiplicative for the negacyclic product. -/
theorem sum_negacyclic {S : Type} [CommRing S] {n : Nat} {x : S} (hx : x ^ n = -1) (f g : Nat → S) :
    ∑ j ∈ Finset.range n, negacyclic n f g j * x ^ j =
      (∑ j ∈ Finset.range n, f j * x ^ j) * ∑ j ∈ Finset.range n, g j * x ^ j := by
  simp only [negacyclic, Finset.sum_mul]
  rw [Finset.sum_comm]
  refine Finset.sum_congr rfl fun i hi => ?_
  obtain ⟨m, rfl⟩ := Nat.exists_eq_add_of_lt (Finset.mem_range.1 hi)
  -- the terms j < i wrap around, the others do not; they are the last i and the first m + 1 terms of g
  have hwrap : ∑ j ∈ Finset.range i, (if i ≤ j then f i * g (j - i) else -(f i * g (i + m + 1 + j - i))) * x ^ j =
      f i * x ^ i * ∑ j ∈ Finset.range i, g (m + 1 + j) * x ^ (m + 1 + j) := by
    rw [Finset.mul_sum]
    refine Finset.sum_congr rfl fun j hj => ?_
    rw [if_neg (by simpa using hj), show i + m + 1 + j - i = m + 1 + j by omega]
    linear_combination (-(f i * g (m + 1 + j) * x ^ j)) * hx
  have hstay : ∑ k ∈ Finset.range (m + 1), (if i ≤ i + k then f i * g (i + k - i) else
      -(f i * g (i + m + 1 + (i + k) - i))) * x ^ (i + k) =
      f i * x ^ i * ∑ k ∈ Finset.range (m + 1), g k * x ^ k := by
    rw [Finset.mul_sum]
    refine Finset.sum_congr rfl fun k _ => ?_
    rw [if_pos (Nat.le_add_right i k), Nat.add_sub_cancel_left]
    ring
  have hl := Finset.sum_range_add
    (fun j => (if i ≤ j then f i * g (j - i) else -(f i * g (i + m + 1 + j - i))) * x ^ j) i (m + 1)
  have hr := Finset.sum_range_add (fun k => g k * x ^ k) (m + 1) i
  rw [← Nat.add_assoc] at hl
  rw [hl, hwrap, hstay, show i + m + 1 = m + 1 + i by omega, hr]
  ring

/-- The residue of Σ f(j)·X^j modulo X^2 − y, as an element of Z_q[X]/(X^2 − y). -/
def evalOmega (y : Fq) (f : Nat → Fq) : QuadraticAlgebra Fq y 0 :=
  ∑ j ∈ Finset.range 256, algebraMap Fq _ (f j) * QuadraticAlgebra.omega ^ j

theorem omega_sq (y : Fq) : (QuadraticAlgebra.omega : QuadraticAlgebra Fq y 0) ^ 2 = algebraMap Fq _ y := by
  rw [sq, QuadraticAlgebra.omega_mul_omega_eq_algebraMap, map_zero, zero_mul, add_zero]

theorem evalOmega_negacyclic {y : Fq} (hy : y ^ 128 = -1) (f g : Nat → Fq) :
    evalOmega y (negacyclic 256 f g) = evalOmega y f * evalOmega y g := by
  have hx : (QuadraticAlgebra.omega : QuadraticAlgebra Fq y 0) ^ 256 = -1 := by
    rw [show 256 = 2 * 128 from rfl, pow_mul, omega_sq, ← map_pow, hy, map_neg, map_one]
  rw [evalOmega, evalOmega, evalOmega, ← sum_negacyclic hx]
  refine Finset.sum_congr rfl fun j _ => ?_
  rw [negacyclic, negacyclic, map_sum]
  refine congrArg (· * _) (Finset.sum_congr rfl fun i _ => ?_)
  split <;> simp

/-- Coefficient e of the residue at leaf i. -/
theorem residue_leaf (f : Nat → Fq) {i e : Nat} (he : e < 2) :
    residue f 2 (2 * i + e) = ∑ k ∈ Finset.range 128, f (2 * k + e) * root (128 + i) ^ k := by
  rw [residue, show (2 * i + e) % 2 = e by omega, show (2 * i + e) / 2 = i by omega]

/-- Its two coefficients are the pair of residues at the leaf of y. -/
theorem evalOmega_eq {i : Nat} (f : Nat → Fq) :
    evalOmega (root (128 + i)) f = ⟨residue f 2 (2 * i), residue f 2 (2 * i + 1)⟩ := by
  have h0 : residue f 2 (2 * i) = ∑ k ∈ Finset.range 128, f (2 * k) * root (128 + i) ^ k :=
    residue_leaf f (e := 0) (by decide)
  have h1 := residue_leaf f (i := i) (e := 1) (by decide)
  rw [QuadraticAlgebra.mk_eq_add_smul_omega, Algebra.smul_def, h0, h1, map_sum, map_sum, Finset.sum_mul,
    ← Finset.sum_add_distrib, evalOmega, show 256 = 2 * 128 from rfl, sum_range_two_mul]
  refine Finset.sum_congr rfl fun k _ => ?_
  rw [pow_succ, pow_mul, omega_sq]
  simp only [map_mul, map_pow, mul_assoc]

theorem root_leaf_pow {i : Nat} (hi : i < 128) : root (128 + i) ^ 128 = -1 := by
  have h : (17 ^ 128 : Fq) = -1 := by decide +kernel
  rw [root_leaf hi, ← pow_mul, Nat.mul_comm, pow_mul, h, Odd.neg_one_pow ⟨brv7 i, rfl⟩]

/-- The pair of residues of a product is the product of the pairs modulo X^2 − root. -/
theorem forward_negacyclic (f g : Nat → Fq) {i : Nat} (hi : i < 128) :
    forward (negacyclic 256 f g) (2 * i) = forward f (2 * i) * forward g (2 * i) +
      root (128 + i) * (forward f (2 * i + 1) * forward g (2 * i + 1)) ∧
    forward (negacyclic 256 f g) (2 * i + 1) =
      forward f (2 * i) * forward g (2 * i + 1) + forward f (2 * i + 1) * forward g (2 * i) := by
  have h := evalOmega_negacyclic (root_leaf_pow hi) f g
  rw [evalOmega_eq, evalOmega_eq, evalOmega_eq, QuadraticAlgebra.ext_iff] at h
  obtain ⟨hre, him⟩ := h
  simp only [QuadraticAlgebra.re_mul, QuadraticAlgebra.im_mul] at hre him
  have h0 : 2 * i < 256 := by omega
  have h1 : 2 * i + 1 < 256 := by omega
  simp only [forward_eq_residue _ _ h0, forward_eq_residue _ _ h1, hre, him]
  exact ⟨by ring, by ring⟩

/-! PolyBaseMul (R261). -/

theorem getElem?_flatMap_range {α : Type} {m : Nat} {g : Nat → List α} (hg : ∀ i, (g i).length = m) {n i k : Nat}
    (hi : i < n) (hk : k < m) : ((List.range n).flatMap g)[m * i + k]? = (g i)[k]? := by
  have hlen : ∀ n, ((List.range n).flatMap g).length = m * n := fun n => by
    simp [List.length_flatMap, hg, Nat.mul_comm]
  induction n with
  | zero => omega
  | succ n ih =>
    rw [List.range_succ, List.flatMap_append, List.flatMap_singleton]
    rcases Nat.lt_succ_iff_lt_or_eq.1 hi with hlt | rfl
    · rw [List.getElem?_append_left (by rw [hlen]; nlinarith), ih hlt]
    · rw [List.getElem?_append_right (by rw [hlen]; omega), hlen, Nat.add_sub_cancel_left]

/-- The twiddle of pair i of a product: ZETAS[64 + i/2] for even i, its negative for odd i (R261). -/
def pairTwiddle (i : Nat) : Coef := if i % 2 = 0 then zeta (64 + i / 2) else -zeta (64 + i / 2)

theorem polyBaseMul_pair (a b : Poly) {i : Nat} (hi : i < 128) :
    let r := baseMul2 (a.getD (2 * i) 0) (a.getD (2 * i + 1) 0) (b.getD (2 * i) 0) (b.getD (2 * i + 1) 0)
      (pairTwiddle i)
    (polyBaseMul a b).getD (2 * i) 0 = r.1 ∧ (polyBaseMul a b).getD (2 * i + 1) 0 = r.2 := by
  have hq : i / 2 < 64 := by omega
  have hg (k : Nat) (hk : k < 4) : (polyBaseMul a b).getD (4 * (i / 2) + k) 0 = (baseMulQuad a b (i / 2)).getD k 0 := by
    rw [List.getD_eq_getElem?_getD, polyBaseMul, getElem?_flatMap_range (m := 4) (fun _ => rfl) hq hk,
      List.getD_eq_getElem?_getD]
  rw [pairTwiddle]
  rcases Nat.mod_two_eq_zero_or_one i with he | ho
  · rw [if_pos he, show 2 * i + 1 = 4 * (i / 2) + 1 by omega, show 2 * i = 4 * (i / 2) + 0 by omega, hg 0 (by decide),
      hg 1 (by decide)]
    exact ⟨rfl, rfl⟩
  · rw [if_neg (by omega), show 2 * i + 1 = 4 * (i / 2) + 3 by omega, show 2 * i = 4 * (i / 2) + 2 by omega,
      hg 2 (by decide), hg 3 (by decide)]
    have hneg : wrap16 (-(zeta (64 + i / 2)).toInt) = -zeta (64 + i / 2) := by
      rw [← zero_sub, wrap16_sub, wrap16_toInt]
      exact zero_sub _
    simp only [baseMulQuad, hneg]
    exact ⟨rfl, rfl⟩

theorem represents_pairTwiddle {i : Nat} (hi : i < 128) : Represents 1664 (pairTwiddle i) (root (128 + i) * 65536) := by
  have hz := represents_zeta (n := 64 + i / 2) (by omega)
  rw [pairTwiddle, root, show (128 + i) % 2 = i % 2 by omega, show (128 + i) / 2 = 64 + i / 2 by omega]
  split
  · exact hz
  · exact (hz.neg (by decide)).congr (neg_mul_eq_neg_mul _ _)

theorem polyReduce_represents {B : Int} {a : Poly} {f : Nat → Fq} (h : PolyRepresents B a f) :
    PolyRepresents 3328 (polyReduce a) f := by
  intro j hj
  rw [polyReduce, getD_map_of_zero (by decide)]
  exact (h j hj).barrett

/-- The product of two reduced forward transforms is the forward transform of the product, times 2^−16. -/
theorem polyBaseMul_represents {a b : Poly} {f g : Nat → Fq} (ha : PolyRepresents 3328 a (forward f))
    (hb : PolyRepresents 3328 b (forward g)) :
    PolyRepresents 6656 (polyBaseMul a b) fun j => 169 * forward (negacyclic 256 f g) j := by
  have hpair : ∀ i, i < 128 → Represents 6656 ((polyBaseMul a b).getD (2 * i) 0)
      (169 * forward (negacyclic 256 f g) (2 * i)) ∧ Represents 6656 ((polyBaseMul a b).getD (2 * i + 1) 0)
      (169 * forward (negacyclic 256 f g) (2 * i + 1)) := fun i hi => by
    obtain ⟨hp0, hp1⟩ := polyBaseMul_pair a b hi
    obtain ⟨hf0, hf1⟩ := forward_negacyclic f g hi
    have ha0 := ha (2 * i) (by omega)
    have ha1 := ha (2 * i + 1) (by omega)
    have hb0 := hb (2 * i) (by omega)
    have hb1 := hb (2 * i + 1) (by omega)
    rw [hp0, hp1, hf0, hf1, baseMul2_eq]
    have hz := (ha1.fqmul_reduced hb1).fqmul (represents_pairTwiddle hi)
    rw [fqmul_comm] at hz
    refine ⟨(hz.add (ha0.fqmul_reduced hb0) (by decide)).congr ?_,
      ((ha0.fqmul_reduced hb1).add (ha1.fqmul_reduced hb0) (by decide)).congr (by ring)⟩
    linear_combination (169 * root (128 + i) * (forward f (2 * i + 1) * forward g (2 * i + 1))) * montgomery_cancel
  intro j hj
  rcases Nat.mod_two_eq_zero_or_one j with he | ho
  · have := (hpair (j / 2) (by omega)).1
    rwa [show 2 * (j / 2) = j by omega] at this
  · have := (hpair (j / 2) (by omega)).2
    rwa [show 2 * (j / 2) + 1 = j by omega] at this

theorem cast_ringProduct (a b : Poly) (j : Nat) :
    (ringProduct a b j : Fq) = negacyclic 256 (values a) (values b) j := by
  rw [ringProduct, cast_list_sum_range, negacyclic]
  refine Finset.sum_congr rfl fun i _ => ?_
  split <;> push_cast <;> rfl

/-- R247 item 2: the R of Intt cancels the R^−1 of the products. -/
theorem intt_polyBaseMul_represents {a b : Poly} (ha : a.length = 256) (hb : b.length = 256) {f g : Nat → Fq}
    (hf : PolyRepresents 3328 a f) (hg : PolyRepresents 3328 b g) :
    PolyRepresents 3328 (intt (polyBaseMul (polyReduce (ntt a)) (polyReduce (ntt b)))) (negacyclic 256 f g) := by
  have hmul := polyBaseMul_represents (polyReduce_represents (ntt_represents ha hf))
    (polyReduce_represents (ntt_represents hb hg))
  intro j hj
  refine (intt_represents (polyBaseMul_length _ _) hmul (by decide) (by decide) j hj).congr ?_
  linear_combination negacyclic 256 f g j * montgomery_cancel

/-- Settles O58: the three parts are `intt_ntt_represents`, `ntt_represents` with the residues at the leaves, and
`intt_polyBaseMul_represents`. -/
theorem inverseTransformUndoesForward : Obligations.InverseTransformUndoesForward := by
  intro a ha hab
  have hf := polyRepresents_values ha hab
  refine ⟨fun j hj => ?_, fun i e hi he => ?_, fun b hb hbb j hj => ?_⟩ <;> rw [emod_sub_eq_zero_iff]
  · rw [(intt_ntt_represents ha hf j hj).value]
    push_cast
    exact mul_comm _ _
  · have hj : 2 * i + e < 256 := by omega
    rw [(ntt_represents ha hf _ hj).value, forward_eq_residue _ _ hj, cast_list_sum_range, residue_leaf _ he]
    refine Finset.sum_congr rfl fun k _ => ?_
    rw [root_leaf hi, ← pow_mul]
    push_cast
    rfl
  · rw [(intt_polyBaseMul_represents ha hb hf (polyRepresents_values hb hbb) j hj).value, cast_ringProduct]

end Sys2Proof.Machine
end

section
/-! PROOFS. Polynomial arithmetic (spec/43_poly.md): the coefficients of the six functions, and what the two-source
commands and PVACC leave. -/

namespace Sys2Proof.Machine

/-! One coefficient of a result (R261 to R265, R267). -/

theorem polyReduce_getD (a : Poly) (j : Nat) : (polyReduce a).getD j 0 = barrett (a.getD j 0) :=
  getD_map_of_zero (by decide) a j

/-- PTOMONT is a Montgomery multiplication by 2^32 mod q (R265). -/
theorem polyToMont_getD (a : Poly) (j : Nat) : (polyToMont a).getD j 0 = fqmul (a.getD j 0) 1353 :=
  getD_map_of_zero (g := fun c => fqmul c 1353) (by decide) a j

/-- R265: the factor 2^32 and the 2^−16 of the reduction leave 2^16. -/
theorem toInt_fqmul_1353_congr (c : Coef) : ((fqmul c 1353).toInt - c.toInt * 65536) % 3329 = 0 := by
  have h : ((fqmul c 1353).toInt * 65536 - c.toInt * 1353) % 3329 = 0 := toInt_fqmul_congr c 1353
  omega

theorem toInt_fqmul_1353_bounds (c : Coef) : -3329 < (fqmul c 1353).toInt ∧ (fqmul c 1353).toInt < 3329 := by
  rw [fqmul_comm]
  exact toInt_fqmul_bounds_of_le (by decide) (by decide) c

theorem polyAdd_eq (a b : Poly) : polyAdd a b = List.zipWith (· + ·) a b := by simp [polyAdd]

theorem polySub_eq (a b : Poly) : polySub a b = List.zipWith (· - ·) a b := by simp [polySub]

theorem polyAdd_getD {a b : Poly} {j : Nat} (ha : j < a.length) (hb : j < b.length) :
    (polyAdd a b).getD j 0 = a.getD j 0 + b.getD j 0 := by
  rw [List.getD_eq_getElem _ _ (by rw [polyAdd_length]; exact lt_min ha hb), List.getD_eq_getElem _ _ ha,
    List.getD_eq_getElem _ _ hb]
  simp [polyAdd_eq]

theorem polyVecAcc_getD (a b : Vec3 Poly) {j : Nat} (hj : j < 256) :
    (polyVecAcc a b).getD j 0 = barrett ((polyBaseMul a.v0 b.v0).getD j 0 + (polyBaseMul a.v1 b.v1).getD j 0 +
      (polyBaseMul a.v2 b.v2).getD j 0) := by
  rw [polyVecAcc, polyReduce_getD, polyAdd_getD (by simpa) (by simpa), polyAdd_getD (by simpa) (by simpa)]

/-! The commands (R262 to R266, R268). -/

theorem exec_preduce (v : Bool) (pd pa : PReg) (s : State) :
    exec (.preduce v pd pa) s = finish (forElems v (mapElem polyReduce pd pa) s) := rfl

theorem exec_ptomont (v : Bool) (pd pa : PReg) (s : State) :
    exec (.ptomont v pd pa) s = finish (forElems v (mapElem polyToMont pd pa) s) := rfl

theorem exec_padd (v : Bool) (pd pa pb : PReg) (s : State) :
    exec (.padd v pd pa pb) s = finish (forElems v (zipElem polyAdd pd pa pb) s) := rfl

theorem exec_psub (v : Bool) (pd pa pb : PReg) (s : State) :
    exec (.psub v pd pa pb) s = finish (forElems v (zipElem polySub pd pa pb) s) := rfl

theorem exec_pbasemul (v : Bool) (pd pa pb : PReg) (s : State) :
    exec (.pbasemul v pd pa pb) s = finish (forElems v (zipElem polyBaseMul pd pa pb) s) := rfl

theorem exec_pvacc (pd pa pb : PReg) (s : State) : exec (.pvacc pd pa pb) s = execPvacc pd pa pb s := rfl

/-- With its second source read, the element of a two-source command maps its first. -/
theorem zipElem_eq_mapElem {s : State} {pb : PReg} {i : Nat} {b : Poly} (h : readPoly s (pb.toNat + i) = .ok b)
    (f : Poly → Poly → Poly) (pd pa : PReg) : zipElem f pd pa pb i s = mapElem (fun a => f a b) pd pa i s := by
  simp only [zipElem, mapElem, h]
  rfl

/-- What the single form of a two-source command leaves: P[pd] has the value computed, and nothing else has changed. -/
theorem finish_zipElem_writes {s : State} {pd pa pb : PReg} {f : Poly → Poly → Poly} {a b : Poly}
    (ha : readPoly s pa.toNat = .ok a) (hb : readPoly s pb.toNat = .ok b) (hf : (f a b).length = 256) :
    ∃ t, finish (forElems false (zipElem f pd pa pb) s) = .next t ∧ readPoly t pd.toNat = .ok (f a b) ∧ Completed t ∧
      ControlKept s t ∧ ResultsKept s t ∧ PregKeptOutside s t pd.toNat 1 ∧ ∀ k, byteOf t k = byteOf s k := by
  rw [forElems_false, zipElem_eq_mapElem hb]
  exact finish_mapElem_writes ha hf

theorem readVec_of_readPoly {s : State} {n : Nat} {p0 p1 p2 : Poly} (h0 : readPoly s n = .ok p0)
    (h1 : readPoly s (n + 1) = .ok p1) (h2 : readPoly s (n + 2) = .ok p2) : readVec s n = .ok ⟨p0, p1, p2⟩ := by
  simp only [readVec, h0, h1, h2]
  rfl

/-- With its other five sources read, PVACC maps its first. -/
theorem exec_pvacc_eq_mapElem {s : State} {pa pb : PReg} {a0 a1 a2 : Poly} {b : Vec3 Poly}
    (h0 : readPoly s pa.toNat = .ok a0) (h1 : readPoly s (pa.toNat + 1) = .ok a1)
    (h2 : readPoly s (pa.toNat + 2) = .ok a2) (hb : readVec s pb.toNat = .ok b) (pd : PReg) :
    exec (.pvacc pd pa pb) s =
      finish (forElems false (mapElem (fun a => polyVecAcc ⟨a, a1, a2⟩ b) pd pa) s) := by
  simp only [exec_pvacc, forElems_false, execPvacc, readVec_of_readPoly h0 h1 h2, hb, mapElem, Nat.add_zero, h0]
  rfl

/-- Settles O18: both commands map one register to another, by `barrett` and by a Montgomery multiplication by 1353. -/
theorem preduceAndPtomontReduceEveryCoefficient : Obligations.PreduceAndPtomontReduceEveryCoefficient := by
  intro s pd pa a h
  have hl := readPoly_length h
  rw [exec_preduce, exec_ptomont]
  constructor
  · obtain ⟨t, hexec, hread, hkept⟩ := finish_mapElem_writes (pd := pd) h ((polyReduce_length a).trans hl)
    refine ⟨t, _, hexec, hread, fun j _ => ?_, hkept⟩
    rw [polyReduce_getD, toInt_barrett]
  · obtain ⟨t, hexec, hread, hkept⟩ := finish_mapElem_writes (pd := pd) h ((polyToMont_length a).trans hl)
    refine ⟨t, _, hexec, hread, fun j _ => ?_, hkept⟩
    rw [polyToMont_getD]
    exact ⟨(fqmulIsTheMontgomeryProduct.2 _ _).1, toInt_fqmul_1353_congr _, toInt_fqmul_1353_bounds _⟩

/-- Settles O19: `wrap16` of an integer sum or difference is the 16-bit one. -/
theorem paddAndPsubWrapCoefficientwise : Obligations.PaddAndPsubWrapCoefficientwise := by
  intro s pd pa pb a b ha hb
  have hla := readPoly_length ha
  have hlb := readPoly_length hb
  simp only [List.forall_mem_cons, ← polyAdd_eq, ← polySub_eq, exec_padd, exec_psub]
  exact ⟨finish_zipElem_writes ha hb (by simp [hla, hlb]), finish_zipElem_writes ha hb (by simp [hla, hlb]),
    List.forall_mem_nil _⟩

/-- Settles O20: `polyBaseMul_pair` gives the pairs of a product, `polyVecAcc_getD` the coefficients of PVACC. -/
theorem productsWriteTheirDestination : Obligations.ProductsWriteTheirDestination := by
  refine fun s pd pa pb => ⟨fun a b ha hb => ?_, fun a0 a1 a2 b0 b1 b2 ha0 ha1 ha2 hb0 hb1 hb2 => ?_⟩
  · rw [exec_pbasemul]
    obtain ⟨t, hexec, hread, hkept⟩ := finish_zipElem_writes (pd := pd) ha hb (polyBaseMul_length a b)
    exact ⟨t, _, hexec, hread, fun j hj => polyBaseMul_pair a b hj, hkept⟩
  · rw [exec_pvacc_eq_mapElem ha0 ha1 ha2 (readVec_of_readPoly hb0 hb1 hb2)]
    obtain ⟨t, hexec, hread, hkept⟩ := finish_mapElem_writes (pd := pd)
      (f := fun a => polyVecAcc ⟨a, a1, a2⟩ ⟨b0, b1, b2⟩) ha0 (polyVecAcc_length _ _)
    refine ⟨t, _, hexec, hread, fun j hj => ?_, hkept⟩
    rw [polyVecAcc_getD _ _ hj, toInt_barrett]

end Sys2Proof.Machine
end

section
/-! PROOFS. Serialisation and coding (spec/44_serial.md) and the noise of spec/45_sample.md R331: the bits of the
encodings, the slices of a byte string that the decodings read, the round trips, and what the packing and the unpacking
commands leave. -/

namespace Sys2Proof.Machine

/-! The bits of bytes and of byte strings (R12). -/

@[simp] theorem getElem_toByte (v : Nat) {k : Nat} (hk : k < 8) : (toByte v)[k] = v.testBit k := by
  rw [← BitVec.getLsbD_eq_getElem, toByte, BitVec.getLsbD_ofNat, decide_eq_true hk, Bool.true_and]

@[simp] theorem testBit_bits (v hi lo k : Nat) :
    (bits v hi lo).testBit k = (decide (k < hi + 1 - lo) && v.testBit (lo + k)) := by
  simp [bits]

theorem testBit_byteAt (b : List Byte) (i k : Nat) :
    (byteAt b i).testBit k = (decide (k < 8) && bitAt b (8 * i + k)) := by
  rw [byteAt, BitVec.testBit_toNat]
  by_cases hk : k < 8
  · simp [bitAt, hk, show (8 * i + k) / 8 = i by omega, show (8 * i + k) % 8 = k by omega]
  · simp [hk, BitVec.getLsbD_of_ge _ _ (Nat.le_of_not_lt hk)]

/-- Group i of a string of groups of m bytes, bit by bit. -/
theorem bitAt_flatMap_range {m : Nat} {g : Nat → List Byte} (hg : ∀ i, (g i).length = m) {n i r : Nat} (hi : i < n)
    (hr : r < 8 * m) : bitAt ((List.range n).flatMap g) (8 * m * i + r) = bitAt (g i) r := by
  have hdiv : (8 * m * i + r) / 8 = m * i + r / 8 := by
    rw [Nat.mul_assoc, Nat.mul_add_div (by decide)]
  have hmod : (8 * m * i + r) % 8 = r % 8 := by
    rw [Nat.mul_assoc, Nat.mul_add_mod]
  rw [bitAt, hdiv, hmod, List.getD_eq_getElem?_getD, getElem?_flatMap_range hg hi (by omega), bitAt,
    List.getD_eq_getElem?_getD]

/-- Coefficient k of group i of a polynomial of groups of m coefficients. -/
theorem getD_flatMap_range {m : Nat} {g : Nat → Poly} (hg : ∀ i, (g i).length = m) {n i k : Nat} (hi : i < n)
    (hk : k < m) : ((List.range n).flatMap g).getD (m * i + k) 0 = (g i).getD k 0 := by
  rw [List.getD_eq_getElem?_getD, getElem?_flatMap_range hg hi hk, List.getD_eq_getElem?_getD]

/-- An index below m·n is place e < m of one of n groups. -/
theorem exists_group {m n j : Nat} (hj : j < m * n) : ∃ i e, i < n ∧ e < m ∧ j = m * i + e :=
  ⟨j / m, j % m, Nat.div_lt_of_lt_mul hj, Nat.mod_lt _ (Nat.pos_of_lt_mul_right hj), (Nat.div_add_mod j m).symm⟩

/-! Norm and Compress (R291, R294). -/

theorem norm_eq {c : Coef} (hl : -3329 < c.toInt) (hu : c.toInt < 3329) : (norm c : Int) = c.toInt % 3329 := by
  have hw : ∀ v : Int, 0 ≤ v → v < 3329 → ((wrap16 v).toNat : Int) = v := fun v h0 h1 => by
    rw [wrap16, BitVec.toNat_ofInt]
    omega
  rw [norm, hw] <;> simp only [Config.q] <;> split <;> omega

theorem compressWith_eq (d m sh x : Nat) : compressWith d m sh x = (2 ^ d * x + 1665) * m / 2 ^ sh % 2 ^ d := by
  rw [compressWith, Nat.and_two_pow_sub_one_eq_mod, Nat.shiftRight_eq_div_pow, Nat.shiftLeft_eq, Nat.mul_comm x]

/-- Multiplying by a little less than P/q and dividing by P rounds the quotient by q, except that an exact multiple of q
falls to the quotient below. -/
theorem mul_reciprocal_div {n m P r y : Nat} (hm : 3329 * m + r = P) (hr : 0 < r) (hl : 3329 * y < n)
    (hu : n ≤ 3329 * (y + 1)) (herr : r * y ≤ (n - 3329 * y) * m) : n * m / P = y := by
  obtain ⟨s, rfl⟩ := Nat.exists_eq_add_of_lt hl
  rw [show 3329 * y + s + 1 - 3329 * y = s + 1 by omega] at herr
  subst hm
  have hs : (s + 1) * m ≤ 3329 * m := Nat.mul_le_mul_right m (by omega)
  exact Nat.div_eq_of_lt_le (by linarith) (by linarith [Nat.zero_le (r * y)])

/-- The error of the reciprocal could tell only where nothing remains, and that is at x = 2079, where the quotient is
small enough. -/
theorem compress10_eq_round {x : Nat} (hx : x < 3329) : compress10 x = roundCompress 10 x := by
  rw [compress10, compressWith_eq, roundCompress]
  refine congrArg (· % 2 ^ 10) (mul_reciprocal_div (r := 1353) (by norm_num) (by norm_num) (by omega) (by omega) ?_)
  rcases Nat.eq_or_lt_of_le
    (show 3329 * ((2 * 2 ^ 10 * x + 3329) / (2 * 3329)) + 1 ≤ 2 ^ 10 * x + 1665 by omega) with h | h <;>
    omega

theorem compress4_eq_round {x : Nat} (hx : x < 3329) : compress4 x = roundCompress 4 x := by
  rw [compress4, compressWith_eq, roundCompress]
  refine congrArg (· % 2 ^ 4) (mul_reciprocal_div (r := 1541) (by norm_num) (by norm_num) (by omega) (by omega) ?_)
  omega

theorem compress1_eq_round {x : Nat} (hx : x < 3329) : compress1 x = roundCompress 1 x := by
  rw [compress1, compressWith_eq, roundCompress]
  refine congrArg (· % 2 ^ 1) (mul_reciprocal_div (r := 1541) (by norm_num) (by norm_num) (by omega) (by omega) ?_)
  omega

theorem compressWith_lt (d m sh x : Nat) : compressWith d m sh x < 2 ^ d :=
  Nat.and_lt_two_pow _ (Nat.sub_lt (Nat.two_pow_pos d) one_pos)

theorem testBit_compressWith_of_le {d k : Nat} (h : d ≤ k) (m sh x : Nat) :
    (compressWith d m sh x).testBit k = false :=
  Nat.testBit_lt_two_pow ((compressWith_lt d m sh x).trans_le (Nat.pow_le_pow_right (by decide) h))

/-! The encodings, bit by bit (R292, R295, R297, R300). -/

theorem testBit_and_0xFFF (v k : Nat) : (v &&& 0xFFF).testBit k = (decide (k < 12) && v.testBit k) := by
  rw [show 0xFFF = 2 ^ 12 - 1 from rfl, Nat.testBit_and, Nat.testBit_two_pow_sub_one, Bool.and_comm]

/-- Bit k of field j stands at place 12·e + k of the three bytes that hold its pair. -/
theorem bitAt_enc12 (a : Poly) {j k : Nat} (hj : j < 256) (hk : k < 12) :
    bitAt (enc12 a) (12 * j + k) = (norm (a.getD j 0)).testBit k := by
  obtain ⟨i, e, hi, he, rfl⟩ := exists_group (m := 2) (n := 128) hj
  rw [show 12 * (2 * i + e) + k = 8 * 3 * i + (12 * e + k) by omega, enc12,
    bitAt_flatMap_range (m := 3) (fun _ => rfl) hi (by omega)]
  interval_cases e <;> interval_cases k <;>
    simp [bitAt, coeffAt, testBit_and_0xFFF, -Nat.testBit_and, -Nat.testBit_zero]

/-- Bit k of field j stands at place 10·e + k of the five bytes that hold its four. -/
theorem bitAt_comp10 (a : Poly) {j k : Nat} (hj : j < 256) (hk : k < 10) :
    bitAt (comp10 a) (10 * j + k) = (compress10 (norm (a.getD j 0))).testBit k := by
  obtain ⟨i, e, hi, he, rfl⟩ := exists_group (m := 4) (n := 64) hj
  rw [show 10 * (4 * i + e) + k = 8 * 5 * i + (10 * e + k) by omega, comp10,
    bitAt_flatMap_range (m := 5) (fun _ => rfl) hi (by omega)]
  interval_cases e <;> interval_cases k <;> simp [bitAt, coeffAt, -Nat.testBit_zero]

theorem bitAt_comp4 (a : Poly) {j k : Nat} (hj : j < 256) (hk : k < 4) :
    bitAt (comp4 a) (4 * j + k) = (compress4 (norm (a.getD j 0))).testBit k := by
  obtain ⟨i, e, hi, he, rfl⟩ := exists_group (m := 2) (n := 128) hj
  rw [show 4 * (2 * i + e) + k = 8 * 1 * i + (4 * e + k) by omega, comp4, List.map_eq_flatMap,
    bitAt_flatMap_range (m := 1) (fun _ => rfl) hi (by omega)]
  interval_cases e <;> interval_cases k <;>
    simp [bitAt, coeffAt, -Nat.testBit_zero, compress4, testBit_compressWith_of_le]

/-- Bits gathered one by one: bit k of the sum is the bit put at place k. -/
theorem testBit_foldl_or_shiftLeft {f : Nat → Nat} (hf : ∀ j, f j < 2) (n k : Nat) :
    ((List.range n).foldl (fun x j => x ||| (f j <<< j)) 0).testBit k = (decide (k < n) && (f k).testBit 0) := by
  induction n with
  | zero => simp
  | succ n ih =>
    rw [List.range_succ, List.foldl_append, List.foldl_cons, List.foldl_nil, Nat.testBit_or, ih, Nat.testBit_shiftLeft]
    rcases Nat.lt_trichotomy k n with h | rfl | h
    · simp [h, Nat.lt_succ_of_lt h, Nat.not_le.2 h]
    · simp
    · have hz : (f n).testBit (k - n) = false :=
        Nat.testBit_lt_two_pow ((hf n).trans_le (Nat.le_self_pow (by omega) 2))
      simp [hz, show ¬ k < n by omega, show ¬ k < n + 1 by omega]

theorem bitAt_toMsg (a : Poly) {j : Nat} (hj : j < 256) :
    bitAt (toMsg a) j = (compress1 (norm (a.getD j 0))).testBit 0 := by
  obtain ⟨i, e, hi, he, rfl⟩ := exists_group (m := 8) (n := 32) hj
  rw [show 8 * i + e = 8 * 1 * i + e by omega, toMsg, List.map_eq_flatMap,
    bitAt_flatMap_range (m := 1) (fun _ => rfl) hi (by omega), bitAt, Nat.div_eq_of_lt he, Nat.mod_eq_of_lt he,
    List.getD_cons_zero, BitVec.getLsbD_eq_getElem he, getElem_toByte _ he,
    testBit_foldl_or_shiftLeft (f := fun j => compress1 (norm (coeffAt a (8 * i + j))))
      (fun _ => compressWith_lt 1 _ _ _), decide_eq_true he, Bool.true_and]
  rfl

/-! Slices of a byte string: what the decodings read (R293, R296, R298, R299, R331). -/

/-- The number in the w bits of a byte string from bit o on. -/
def bitSlice (b : List Byte) (o w : Nat) : Nat := Nat.ofBits fun k : Fin w => bitAt b (o + k)

@[simp] theorem testBit_bitSlice (b : List Byte) (o w k : Nat) :
    (bitSlice b o w).testBit k = (decide (k < w) && bitAt b (o + k)) := by
  by_cases hk : k < w
  · simp [bitSlice, hk]
  · simp [bitSlice, hk, Nat.testBit_ofBits_ge _ _ (Nat.le_of_not_lt hk)]

theorem bitSlice_lt (b : List Byte) (o w : Nat) : bitSlice b o w < 2 ^ w := Nat.ofBits_lt_two_pow _

theorem eq_bitSlice_iff {v w : Nat} (hv : v < 2 ^ w) (b : List Byte) (o : Nat) :
    v = bitSlice b o w ↔ ∀ k, k < w → v.testBit k = bitAt b (o + k) := by
  constructor
  · rintro rfl k hk
    simp [hk]
  · refine fun h => Nat.eq_of_testBit_eq fun k => ?_
    rw [testBit_bitSlice]
    by_cases hk : k < w
    · rw [h k hk, decide_eq_true hk, Bool.true_and]
    · rw [decide_eq_false hk, Bool.false_and,
        Nat.testBit_lt_two_pow (hv.trans_le (Nat.pow_le_pow_right (by decide) (Nat.le_of_not_lt hk)))]

theorem byteAt_eq_bitSlice (b : List Byte) (i : Nat) : byteAt b i = bitSlice b (8 * i) 8 :=
  Nat.eq_of_testBit_eq fun k => by rw [testBit_byteAt, testBit_bitSlice]

theorem bits_bitSlice {hi lo w : Nat} (h : hi < w) (b : List Byte) (o : Nat) :
    bits (bitSlice b o w) hi lo = bitSlice b (o + lo) (hi + 1 - lo) := by
  refine Nat.eq_of_testBit_eq fun k => ?_
  by_cases hk : k < hi + 1 - lo
  · simp [hk, show lo + k < w by omega, Nat.add_assoc]
  · simp [hk]

theorem bitSlice_shiftRight (b : List Byte) (o w n : Nat) : bitSlice b o w >>> n = bitSlice b (o + n) (w - n) := by
  refine Nat.eq_of_testBit_eq fun k => ?_
  simp [show n + k < w ↔ k < w - n by omega, Nat.add_assoc]

theorem bitSlice_and_mask {m w : Nat} (h : m ≤ w) (b : List Byte) (o : Nat) :
    bitSlice b o w &&& (2 ^ m - 1) = bitSlice b o m := by
  refine Nat.eq_of_testBit_eq fun k => ?_
  rw [Nat.testBit_and, Nat.testBit_two_pow_sub_one, testBit_bitSlice, testBit_bitSlice]
  by_cases hk : k < m
  · simp [hk, hk.trans_le h]
  · simp [hk]

/-- Two slices that meet are one. -/
theorem bitSlice_or_shiftLeft {b : List Byte} {o p u : Nat} (h : p = o + u) (w : Nat) :
    bitSlice b o u ||| (bitSlice b p w <<< u) = bitSlice b o (u + w) := by
  subst h
  refine Nat.eq_of_testBit_eq fun k => ?_
  by_cases hk : k < u
  · simp [hk, Nat.not_le.2 hk, Nat.lt_add_right w hk]
  · simp [hk, Nat.le_of_not_lt hk, show o + u + (k - u) = o + k by omega, show k - u < w ↔ k < u + w by omega]

theorem dec12_getD (b : List Byte) {j : Nat} (hj : j < 256) :
    (dec12 b).getD j 0 = BitVec.ofNat 16 (bitSlice b (12 * j) 12) := by
  obtain ⟨i, e, hi, he, rfl⟩ := exists_group (m := 2) (n := 128) hj
  rw [dec12, getD_flatMap_range (m := 2) (fun _ => rfl) hi he]
  simp only [byteAt_eq_bitSlice, bits_bitSlice (show 3 < 8 by decide), bits_bitSlice (show 7 < 8 by decide)]
  interval_cases e <;>
    refine congrArg (BitVec.ofNat 16) ((bitSlice_or_shiftLeft ?_ _).trans (congrArg (bitSlice b · 12) ?_)) <;> omega

/-- The low 10 bits of the end of one byte and of the next byte whole. -/
theorem bitSlice_or_and_0x3FF {b : List Byte} {o p u : Nat} (h : p = o + u) (hu : 2 ≤ u) :
    (bitSlice b o u ||| (bitSlice b p 8 <<< u)) &&& 0x3FF = bitSlice b o 10 := by
  rw [bitSlice_or_shiftLeft h]
  exact bitSlice_and_mask (m := 10) (by omega) b o

theorem decomp10_getD (b : List Byte) {j : Nat} (hj : j < 256) :
    (decomp10 b).getD j 0 = decompress 10 (bitSlice b (10 * j) 10) := by
  obtain ⟨i, e, hi, he, rfl⟩ := exists_group (m := 4) (n := 64) hj
  rw [decomp10, getD_flatMap_range (m := 4) (fun _ => rfl) hi he]
  simp only [byteAt_eq_bitSlice, bitSlice_shiftRight]
  interval_cases e <;>
    refine congrArg (decompress 10) ((bitSlice_or_and_0x3FF ?_ ?_).trans (congrArg (bitSlice b · 10) ?_)) <;> omega

theorem decomp4_getD (b : List Byte) {j : Nat} (hj : j < 256) :
    (decomp4 b).getD j 0 = decompress 4 (bitSlice b (4 * j) 4) := by
  obtain ⟨i, e, hi, he, rfl⟩ := exists_group (m := 2) (n := 128) hj
  rw [decomp4, getD_flatMap_range (m := 2) (fun _ => rfl) hi he]
  simp only [byteAt_eq_bitSlice, bits_bitSlice (show 3 < 8 by decide), bits_bitSlice (show 7 < 8 by decide)]
  interval_cases e <;> refine congrArg (decompress 4) (congrArg (bitSlice b · 4) ?_) <;> omega

theorem fromMsg_getD (m : List Byte) {j : Nat} (hj : j < 256) :
    (fromMsg m).getD j 0 = if bitAt m j then 1665 else 0 := by
  obtain ⟨i, e, hi, he, rfl⟩ := exists_group (m := 8) (n := 32) hj
  have hbit : bits (byteAt m i) e e = (bitAt m (8 * i + e)).toNat := by
    rw [byteAt_eq_bitSlice, bits_bitSlice he, Nat.add_sub_cancel_left]
    simp [bitSlice, Nat.ofBits_succ]
  rw [fromMsg, getD_flatMap_range (m := 8) (fun _ => by simp) hi he, List.getD_eq_getElem _ _ (by simpa),
    List.getElem_map, List.getElem_range, hbit]
  cases bitAt m (8 * i + e) <;> rfl

theorem le32_eq_bitSlice (b : List Byte) (i : Nat) : le32 b i = bitSlice b (32 * i) 32 := by
  simp only [le32, byteAt_eq_bitSlice]
  rw [bitSlice_or_shiftLeft (by omega), bitSlice_or_shiftLeft (u := 16) (by omega),
    bitSlice_or_shiftLeft (u := 24) (by omega)]
  exact congrArg (bitSlice b · 32) (by omega)

/-! The noise (R331). -/

/-- The mask of the low bits of n pairs of bits: 0x55555555 is that of 16 pairs. -/
def evenMask : Nat → Nat
  | 0 => 0
  | n + 1 => 4 * evenMask n + 1

theorem and_evenMask_succ (t n : Nat) : t &&& evenMask (n + 1) = 4 * (t / 4 &&& evenMask n) + t % 2 := by
  have hdiv : (t &&& evenMask (n + 1)) / 4 = t / 4 &&& evenMask (n + 1) / 4 := Nat.and_div_two_pow (n := 2)
  have hmod : (t &&& evenMask (n + 1)) % 4 = t % 4 &&& evenMask (n + 1) % 4 := Nat.and_mod_two_pow (n := 2)
  rw [evenMask] at hdiv hmod ⊢
  have hm : (4 * evenMask n + 1) / 4 = evenMask n := by omega
  have hm' : (4 * evenMask n + 1) % 4 = 2 ^ 1 - 1 := by omega
  rw [hm] at hdiv
  rw [hm', Nat.and_two_pow_sub_one_eq_mod] at hmod
  omega

/-- The sums of the two bits of each pair do not carry into one another. -/
theorem pairSums_shiftRight_and_three {n p : Nat} (hp : p < n) (t : Nat) :
    (((t &&& evenMask n) + ((t >>> 1) &&& evenMask n)) >>> (2 * p)) &&& 3 =
      (t.testBit (2 * p)).toNat + (t.testBit (2 * p + 1)).toNat := by
  have hthree (x : Nat) : x &&& 3 = x % 4 := Nat.and_two_pow_sub_one_eq_mod x 2
  induction n generalizing p t with
  | zero => omega
  | succ n ih =>
    have hsum : (t &&& evenMask (n + 1)) + ((t >>> 1) &&& evenMask (n + 1)) =
        4 * ((t / 4 &&& evenMask n) + ((t / 4) >>> 1 &&& evenMask n)) + (t % 2 + t / 2 % 2) := by
      rw [and_evenMask_succ, and_evenMask_succ, Nat.shiftRight_one, Nat.shiftRight_one, Nat.div_right_comm t 2 4]
      ring
    rw [hsum]
    cases p with
    | zero =>
      rw [hthree, Nat.toNat_testBit, Nat.toNat_testBit]
      simp only [Nat.mul_zero, Nat.shiftRight_zero]
      omega
    | succ p =>
      have hbit (k : Nat) : t.testBit (k + 2) = (t / 4).testBit k := by
        rw [Nat.testBit_add]
      rw [show 2 * (p + 1) = 2 * p + 2 by ring, show 2 * p + 2 + 1 = 2 * p + 1 + 2 by ring, hbit, hbit,
        ← ih (by omega), Nat.add_comm (2 * p) 2, Nat.shiftRight_add]
      congr 2
      rw [Nat.shiftRight_eq_div_pow]
      omega

/-- Bit k of a byte string, as a number. -/
def bitInt (b : List Byte) (k : Nat) : Int := if bitAt b k then 1 else 0

theorem bitInt_bounds (b : List Byte) (k : Nat) : 0 ≤ bitInt b k ∧ bitInt b k ≤ 1 := by
  rw [bitInt]
  split <;> decide

theorem cast_toNat_bitAt (b : List Byte) (k : Nat) : ((bitAt b k).toNat : Int) = bitInt b k := by
  rw [bitInt]
  cases bitAt b k <;> rfl

/-- A coefficient of the noise is a pair sum less the next one (R331). -/
theorem cbd2_getD (b : List Byte) {j : Nat} (hj : j < 256) : (cbd2 b).getD j 0 =
    wrap16 ((bitInt b (4 * j) + bitInt b (4 * j + 1)) - (bitInt b (4 * j + 2) + bitInt b (4 * j + 3))) := by
  obtain ⟨i, e, hi, he, rfl⟩ := exists_group (m := 8) (n := 32) hj
  have hpair {o p : Nat} (hp : p < 16) (ho : o = 32 * i + 2 * p) :
      (((((le32 b i &&& evenMask 16) + ((le32 b i >>> 1) &&& evenMask 16)) >>> (2 * p)) &&& 3 : Nat) : Int) =
        bitInt b o + bitInt b (o + 1) := by
    rw [pairSums_shiftRight_and_three hp, le32_eq_bitSlice, testBit_bitSlice, testBit_bitSlice,
      decide_eq_true (by omega), decide_eq_true (by omega), Bool.true_and, Bool.true_and, Nat.cast_add,
      cast_toNat_bitAt, cast_toNat_bitAt, ho, Nat.add_assoc]
  have hx := hpair (o := 4 * (8 * i + e)) (p := 2 * e) (by omega) (by ring)
  have hy := hpair (o := 4 * (8 * i + e) + 2) (p := 2 * e + 1) (by omega) (by ring)
  rw [← hx, ← hy, cbd2, getD_flatMap_range (m := 8) (fun _ => by simp) hi he, List.getD_eq_getElem _ _ (by simpa),
    List.getElem_map, List.getElem_range, ← Nat.mul_assoc, Nat.mul_add, ← Nat.mul_assoc]
  rfl

theorem pairDifference_bounds (b : List Byte) (o : Nat) :
    -2 ≤ (bitInt b o + bitInt b (o + 1)) - (bitInt b (o + 2) + bitInt b (o + 3)) ∧
      (bitInt b o + bitInt b (o + 1)) - (bitInt b (o + 2) + bitInt b (o + 3)) ≤ 2 := by
  have h0 := bitInt_bounds b o
  have h1 := bitInt_bounds b (o + 1)
  have h2 := bitInt_bounds b (o + 2)
  have h3 := bitInt_bounds b (o + 3)
  omega

theorem toInt_cbd2_getD (b : List Byte) {j : Nat} (hj : j < 256) : ((cbd2 b).getD j 0).toInt =
    (bitInt b (4 * j) + bitInt b (4 * j + 1)) - (bitInt b (4 * j + 2) + bitInt b (4 * j + 3)) := by
  obtain ⟨hl, hu⟩ := pairDifference_bounds b (4 * j)
  rw [cbd2_getD b hj]
  exact toInt_wrap16 (by omega) (by omega)

theorem toInt_cbd2_getD_bounds (b : List Byte) {j : Nat} (hj : j < 256) :
    -2 ≤ ((cbd2 b).getD j 0).toInt ∧ ((cbd2 b).getD j 0).toInt ≤ 2 := by
  rw [toInt_cbd2_getD b hj]
  exact pairDifference_bounds b (4 * j)

/-! Decompress (R296). -/

theorem decompress_quotient_lt {d y : Nat} (hy : y ≤ 2 ^ d) : (y * 3329 + 2 ^ (d - 1)) / 2 ^ d < 32768 := by
  have hhalf : 2 ^ (d - 1) ≤ 2 ^ d := Nat.pow_le_pow_right (by decide) (Nat.sub_le d 1)
  exact (Nat.div_le_of_le_mul (by linarith : _ ≤ 2 ^ d * 3330)).trans_lt (by decide)

/-- The quotient of R296 fits an `s16`. -/
theorem toNat_decompress {d y : Nat} (hy : y ≤ 2 ^ d) : (decompress d y).toNat = (y * 3329 + 2 ^ (d - 1)) / 2 ^ d := by
  have hlt := decompress_quotient_lt hy
  rw [decompress, Nat.shiftRight_eq_div_pow, wrap16, BitVec.ofInt_natCast, BitVec.toNat_ofNat]
  exact Nat.mod_eq_of_lt (hlt.trans (by decide))

theorem toInt_decompress {d y : Nat} (hy : y ≤ 2 ^ d) :
    (decompress d y).toInt = ((y * 3329 + 2 ^ (d - 1)) / 2 ^ d : Nat) := by
  have hlt := decompress_quotient_lt hy
  rw [BitVec.toInt_eq_toNat_of_lt (by rw [toNat_decompress hy]; omega), toNat_decompress hy]

/-! The round trips (R301). -/

/-- The full 2^d that rounding may give wraps to 0, and q is 0 mod q. -/
theorem decompress_emod_two_pow {d y : Nat} (hd : 0 < d) (hy : y ≤ 2 ^ d) :
    ((decompress d (y % 2 ^ d)).toInt - ((y * 3329 + 2 ^ (d - 1)) / 2 ^ d : Nat)) % 3329 = 0 := by
  rw [toInt_decompress (Nat.mod_lt y (Nat.two_pow_pos d)).le]
  rcases Nat.lt_or_eq_of_le hy with h | rfl
  · rw [Nat.mod_eq_of_lt h, sub_self, Int.zero_emod]
  · have hhalf : 2 ^ (d - 1) / 2 ^ d = 0 := Nat.div_eq_of_lt (Nat.pow_lt_pow_right (by decide) (by omega))
    rw [Nat.mod_self, Nat.mul_add_div (Nat.two_pow_pos d), Nat.zero_mul, Nat.zero_add, hhalf]
    rfl

/-- |Decompress_d(Compress_d(x)) − x| mod q, taken to the nearer multiple of q (R301 item 3). -/
def codingLoss (d : Nat) (compress : Nat → Nat) (x : Nat) : Int :=
  let e := ((decompress d (compress x)).toInt - x) % 3329
  min e (3329 - e)

/-- A value that goes back to within B of x, before 2^d wraps to 0, has a loss of at most B. -/
theorem codingLoss_le {d x y : Nat} {B : Int} {compress : Nat → Nat} (hd : 0 < d) (hc : compress x = y % 2 ^ d)
    (hy : y ≤ 2 ^ d) (h : |((y * 3329 + 2 ^ (d - 1)) / 2 ^ d : Nat) - (x : Int)| ≤ B) :
    codingLoss d compress x ≤ B := by
  have hmod := decompress_emod_two_pow hd hy
  rw [abs_le] at h
  simp only [codingLoss, hc]
  omega

theorem codingLoss_compress10_le {x : Nat} (hx : x < 3329) : codingLoss 10 compress10 x ≤ 2 :=
  codingLoss_le (by decide) (compress10_eq_round hx) (by omega) (by rw [abs_le]; omega)

theorem codingLoss_compress4_le {x : Nat} (hx : x < 3329) : codingLoss 4 compress4 x ≤ 104 :=
  codingLoss_le (by decide) (compress4_eq_round hx) (by omega) (by rw [abs_le]; omega)

theorem eq_of_bitAt_eq {b c : List Byte} (hl : b.length = c.length)
    (h : ∀ k, k < 8 * b.length → bitAt b k = bitAt c k) : b = c := by
  refine List.ext_getElem hl fun i hb hc => BitVec.eq_of_getLsbD_eq fun k hk => ?_
  have := h (8 * i + k) (by omega)
  rwa [bitAt, bitAt, show (8 * i + k) / 8 = i by omega, show (8 * i + k) % 8 = k by omega,
    List.getD_eq_getElem _ _ hb, List.getD_eq_getElem _ _ hc] at this

theorem toMsg_fromMsg {m : List Byte} (hm : m.length = 32) : toMsg (fromMsg m) = m := by
  refine eq_of_bitAt_eq (by simp [hm]) fun k hk => ?_
  rw [toMsg_length] at hk
  rw [bitAt_toMsg _ hk, fromMsg_getD _ hk]
  cases bitAt m k <;> decide

theorem dec12_enc12 {a : Poly} (ha : a.length = 256) (hb : ∀ c ∈ a, -3329 < c.toInt ∧ c.toInt < 3329) :
    dec12 (enc12 a) = a.map fun c => BitVec.ofInt 16 (c.toInt % 3329) := by
  refine List.ext_getElem (by simp [ha]) fun j hj hj' => ?_
  rw [dec12_length] at hj
  rw [← List.getD_eq_getElem _ 0, dec12_getD _ hj, List.getElem_map]
  obtain ⟨hl, hu⟩ := hb (a[j]) (List.getElem_mem _)
  have hn := norm_eq hl hu
  rw [← hn, BitVec.ofInt_natCast]
  refine congrArg _ (Eq.symm ((eq_bitSlice_iff (by omega) _ _).2 fun k hk => ?_))
  rw [bitAt_enc12 a hj hk, List.getD_eq_getElem]

/-! The commands (R290). -/

theorem exec_tobytes (v : Bool) (pa : PReg) (s : State) :
    exec (.tobytes v pa) s = finish (forElems v (packElem enc12 384 pa) s) := rfl

theorem exec_compress10 (v : Bool) (pa : PReg) (s : State) :
    exec (.compress10 v pa) s = finish (forElems v (packElem comp10 320 pa) s) := rfl

theorem exec_compress4 (v : Bool) (pa : PReg) (s : State) :
    exec (.compress4 v pa) s = finish (forElems v (packElem comp4 128 pa) s) := rfl

theorem exec_tomsg (pa : PReg) (s : State) :
    exec (.tomsg pa) s = finish (forElems false (packElem toMsg 32 pa) s) := rfl

theorem exec_frombytes (v : Bool) (pd : PReg) (s : State) :
    exec (.frombytes v pd) s = finish (forElems v (unpackElem dec12 384 pd) s) := rfl

theorem exec_decompress10 (v : Bool) (pd : PReg) (s : State) :
    exec (.decompress10 v pd) s = finish (forElems v (unpackElem decomp10 320 pd) s) := rfl

theorem exec_decompress4 (v : Bool) (pd : PReg) (s : State) :
    exec (.decompress4 v pd) s = finish (forElems v (unpackElem decomp4 128 pd) s) := rfl

theorem exec_frommsg (pd : PReg) (s : State) :
    exec (.frommsg pd) s = finish (forElems false (unpackElem fromMsg 32 pd) s) := rfl

theorem exec_cbd2 (v : Bool) (pd : PReg) (s : State) :
    exec (.cbd2 v pd) s = finish (forElems v (unpackElem cbd2 128 pd) s) := rfl

/-- What the single form of a packing command leaves: the encoding at ARG0, and nothing else has changed. -/
theorem finish_packElem_writes {s : State} {pa : PReg} {f : Poly → List Byte} {a : Poly} {n : Nat}
    (h : readPoly s pa.toNat = .ok a) (hf : (f a).length = n) (hn : s.arg0.toNat + n ≤ 8192) :
    ∃ t, finish (forElems false (packElem f n pa) s) = .next t ∧ readBytes t s.arg0.toNat n = .ok (f a) ∧
      Completed t ∧ ControlKept s t ∧ ResultsKept s t ∧ (∀ k, readCell t.preg k = readCell s.preg k) ∧
      BmemKeptOutside s t s.arg0.toNat n := by
  obtain ⟨u, hu⟩ : ∃ u, writeBytes s s.arg0.toNat (f a) = .ok u := ⟨_, writeBytes_ok_iff.2 ⟨by rwa [hf], rfl⟩⟩
  have he : forElems false (packElem f n pa) s = .ok u := except_bind_ok.2 ⟨a, h, hu⟩
  have hread : readBytes (complete u) s.arg0.toNat n = .ok (f a) :=
    hf ▸ (readBytes_writeBytes_self hu : readBytes u _ _ = _)
  refine ⟨complete u, finish_eq_next.2 ⟨u, he, rfl⟩, hread, completed_complete u, ?_⟩
  obtain ⟨-, rfl⟩ := writeBytes_ok_iff.1 hu
  exact ⟨by simp [ControlKept], ⟨rfl, rfl, rfl⟩, fun _ => rfl,
    fun k hk => readCell_writeCells_outside _ _ _ _ (by rwa [hf])⟩

/-- What a write of one register leaves, at the end of a command: its polynomial, and nothing else has changed. -/
theorem finish_writePoly_writes (s : State) (pd : PReg) {p : Poly} (hp : p.length = 256) :
    ∃ t, finish (writePoly s pd.toNat p) = .next t ∧ readPoly t pd.toNat = .ok p ∧ Completed t ∧ ControlKept s t ∧
      ResultsKept s t ∧ PregKeptOutside s t pd.toNat 1 ∧ ∀ k, byteOf t k = byteOf s k := by
  obtain ⟨u, hu⟩ : ∃ u, writePoly s pd.toNat p = .ok u := ⟨_, writePoly_ok_iff.2 ⟨pd.isLt, rfl⟩⟩
  have hread : readPoly (complete u) pd.toNat = .ok p := (readPoly_writePoly_self hp hu : readPoly u _ = _)
  have hout : PregKeptOutside s (complete u) pd.toNat 1 := fun _ hk => readCell_writePoly_outside hp hu hk
  refine ⟨complete u, finish_eq_next.2 ⟨u, hu, rfl⟩, hread, completed_complete u, ?_⟩
  obtain ⟨-, rfl⟩ := writePoly_ok_iff.1 hu
  exact ⟨by simp [ControlKept], ⟨rfl, rfl, rfl⟩, hout, fun _ => rfl⟩

/-- What the single form of an unpacking command leaves: the decoding in P[pd], and nothing else has changed. -/
theorem finish_unpackElem_writes {s : State} {pd : PReg} {f : List Byte → Poly} {b : List Byte} {n : Nat}
    (h : readBytes s s.arg0.toNat n = .ok b) (hf : (f b).length = 256) :
    ∃ t, finish (forElems false (unpackElem f n pd) s) = .next t ∧ readPoly t pd.toNat = .ok (f b) ∧ Completed t ∧
      ControlKept s t ∧ ResultsKept s t ∧ PregKeptOutside s t pd.toNat 1 ∧ ∀ k, byteOf t k = byteOf s k := by
  have he : forElems false (unpackElem f n pd) s = writePoly s pd.toNat (f b) := by
    rw [forElems_false, unpackElem, Nat.mul_zero, Nat.add_zero, arg0Off, h]
    rfl
  rw [he]
  exact finish_writePoly_writes s pd hf

/-- Settles O21: the four commands are one element operation, and each encoding is known bit by bit. -/
theorem packingCommandsWriteAtArg0 : Obligations.PackingCommandsWriteAtArg0 := by
  refine ⟨fun s pa a h => ?_, fun a j hj => ?_, fun c => norm_eq, fun x hx => ?_⟩
  · simp only [List.forall_mem_cons, exec_tobytes, exec_compress10, exec_compress4, exec_tomsg]
    exact ⟨finish_packElem_writes h (enc12_length a), finish_packElem_writes h (comp10_length a),
      finish_packElem_writes h (comp4_length a), finish_packElem_writes h (toMsg_length a), List.forall_mem_nil _⟩
  · exact ⟨fun k => bitAt_enc12 a hj, fun k => bitAt_comp10 a hj, fun k => bitAt_comp4 a hj, bitAt_toMsg a hj⟩
  · simp only [List.forall_mem_cons]
    exact ⟨compress10_eq_round hx, compress4_eq_round hx, compress1_eq_round hx, List.forall_mem_nil _⟩

/-- Settles O22: the five commands are one element operation, and each coefficient is a function of one slice. -/
theorem unpackingCommandsReadAtArg0 : Obligations.UnpackingCommandsReadAtArg0 := by
  refine ⟨fun s pd b => ?_, fun b j hj => ⟨⟨?_, fun k hk => ?_⟩, fun y hy => ?_, fun y hy => ?_, fromMsg_getD b hj, ?_⟩⟩
  · simp only [List.forall_mem_cons, exec_frombytes, exec_decompress10, exec_decompress4, exec_frommsg, exec_cbd2]
    exact ⟨fun h => finish_unpackElem_writes h (dec12_length b),
      fun h => finish_unpackElem_writes h (decomp10_length b), fun h => finish_unpackElem_writes h (decomp4_length b),
      fun h => finish_unpackElem_writes h (fromMsg_length b), fun h => finish_unpackElem_writes h (cbd2_length b),
      List.forall_mem_nil _⟩
  · rw [dec12_getD b hj, BitVec.toNat_ofNat]
    exact (Nat.mod_le _ _).trans_lt (bitSlice_lt b (12 * j) 12)
  · rw [dec12_getD b hj, BitVec.getLsbD_ofNat, testBit_bitSlice, decide_eq_true hk, decide_eq_true (by omega)]
    rfl
  · rw [decomp10_getD b hj, ← (eq_bitSlice_iff y.isLt b (10 * j)).2 hy]
    exact toNat_decompress y.isLt.le
  · rw [decomp4_getD b hj, ← (eq_bitSlice_iff y.isLt b (4 * j)).2 hy]
    exact toNat_decompress y.isLt.le
  · exact ⟨toInt_cbd2_getD b hj, toInt_cbd2_getD_bounds b hj⟩

/-- Settles O59: `dec12_enc12`, `toMsg_fromMsg`, the two bounds on `codingLoss` with an x that attains each, and the
lengths of the encodings. -/
theorem codingsRoundTrip : Obligations.CodingsRoundTrip :=
  ⟨fun _ => dec12_enc12, fun _ => toMsg_fromMsg,
    ⟨fun _ => codingLoss_compress10_le, 5, by decide, by decide⟩,
    ⟨fun _ => codingLoss_compress4_le, 104, by decide, by decide⟩,
    fun a => ⟨enc12_length a, comp10_length a, comp4_length a, toMsg_length a⟩⟩

end Sys2Proof.Machine
end

section
/-! PROOFS. Sampling (spec/45_sample.md): what the rejection sampler computes on a stream, the matrix and its
transpose, and the commands that sample. -/

namespace Sys2Proof.Machine

/-! The candidates of a stream (R340). -/

theorem cand1_eq (s0 s1 : Byte) : cand1 s0 s1 = s0.toNat + 256 * (s1.toNat % 16) := by
  have h : s1.toNat &&& 0x0F = s1.toNat % 16 := Nat.and_two_pow_sub_one_eq_mod _ 4
  rw [cand1, h, Nat.or_comm, ← Nat.shiftLeft_add_eq_or_of_lt (b := s0.toNat) s0.isLt, Nat.shiftLeft_eq]
  omega

theorem cand2_eq (s1 s2 : Byte) : cand2 s1 s2 = s1.toNat / 16 + 16 * s2.toNat := by
  have h : s1.toNat / 2 ^ 4 < 2 ^ 4 := by omega
  rw [cand2, Nat.shiftRight_eq_div_pow, Nat.or_comm, ← Nat.shiftLeft_add_eq_or_of_lt h, Nat.shiftLeft_eq]
  omega

/-- A triplet gives its d1 and its d2, and then the rest of the stream its candidates. -/
theorem candidates_cons (s0 s1 s2 : Byte) (rest : List Byte) :
    candidates (s0 :: s1 :: s2 :: rest) = cand1 s0 s1 :: cand2 s1 s2 :: candidates rest := by
  have hlen : (s0 :: s1 :: s2 :: rest).length / 3 = rest.length / 3 + 1 := by simp only [List.length_cons]; omega
  rw [candidates, hlen, List.range_succ_eq_map, List.flatMap_cons, List.flatMap_map, cand1_eq, cand2_eq]
  rfl

/-- Fewer than three bytes give no candidate. -/
theorem candidates_of_no_triplet {b : List Byte} (h : ∀ s0 s1 s2 rest, b = s0 :: s1 :: s2 :: rest → False) :
    candidates b = [] := by
  have hlen : b.length < 3 := by
    match b with
    | [] | [_] | [_, _] => simp
    | _ :: _ :: _ :: _ => exact (h _ _ _ _ rfl).elim
  rw [candidates, Nat.div_eq_of_lt hlen]
  rfl

/-! The loop (R343): it folds `acceptCand` over the candidates. -/

theorem acceptCand_of_full {a : Poly} (h : ¬ a.length < 256) (d : Nat) : acceptCand a d = a :=
  if_neg fun hc => h hc.1

theorem foldl_acceptCand_of_full {a : Poly} (h : ¬ a.length < 256) (ds : List Nat) : ds.foldl acceptCand a = a :=
  List.foldl_fixed' (acceptCand_of_full h) ds

theorem sampleLoop_of_full {a : Poly} (h : ¬ a.length < 256) (b : List Byte) : sampleLoop a b = some a := by
  rw [sampleLoop.eq_def]
  split <;> exact if_neg h

theorem sampleLoop_eq_foldl (a : Poly) (b : List Byte) :
    sampleLoop a b =
      if ((candidates b).foldl acceptCand a).length < 256 then none else some ((candidates b).foldl acceptCand a) := by
  induction a, b using sampleLoop.induct with
  | case1 a s0 s1 s2 rest hlt ih => rw [sampleLoop, if_pos hlt, ih, candidates_cons]; rfl
  | case2 a s0 s1 s2 rest hfull => rw [sampleLoop_of_full hfull, foldl_acceptCand_of_full hfull, if_neg hfull]
  | case3 b a hlt hb => simp [candidates_of_no_triplet hb, sampleLoop, hlt]
  | case4 b a hfull hb => rw [sampleLoop_of_full hfull, foldl_acceptCand_of_full hfull, if_neg hfull]

/-- Folding `acceptCand` appends the candidates below q, up to 256 values. -/
theorem foldl_acceptCand {a : Poly} (ha : a.length ≤ 256) (ds : List Nat) :
    ds.foldl acceptCand a = (a ++ (ds.filter (· < 3329)).map (BitVec.ofNat 16)).take 256 := by
  induction ds generalizing a with
  | nil => simp [List.take_of_length_le ha]
  | cons d ds ih =>
    by_cases hfull : a.length < 256
    · rw [List.foldl_cons, ih (acceptCand_length_le ha d), List.filter_cons, acceptCand]
      by_cases hd : d < 3329 <;> simp [hfull, hd]
    · rw [foldl_acceptCand_of_full hfull, List.take_left' (by omega)]

/-- The candidates below q of n blocks of a stream, in its order. -/
def acceptedCands (H : Config.HashFns) (n : Nat) (m : List Byte) : List Nat :=
  (candidates (xofStream H m n)).filter (· < 3329)

theorem sampleNtt_eq (H : Config.HashFns) (n : Nat) (m : List Byte) :
    sampleNtt H n m = if (acceptedCands H n m).length < 256 then none
      else some (((acceptedCands H n m).take 256).map (BitVec.ofNat 16)) := by
  rw [sampleNtt, sampleLoop_eq_foldl, foldl_acceptCand (Nat.zero_le _), List.nil_append, ← List.map_take,
    List.length_map, List.length_take]
  exact if_congr (by rw [acceptedCands]; omega) rfl rfl

theorem sampleNtt_eq_some_iff {H : Config.HashFns} {n : Nat} {m : List Byte} {p : Poly} :
    sampleNtt H n m = some p ↔
      256 ≤ (acceptedCands H n m).length ∧ ((acceptedCands H n m).take 256).map (BitVec.ofNat 16) = p := by
  rw [sampleNtt_eq]
  split
  · next h => simp [h]
  · next h => simp [Nat.le_of_not_lt h]

/-- Every sampled coefficient lies in [0, q). -/
theorem toNat_lt_of_sampleNtt {H : Config.HashFns} {n : Nat} {m : List Byte} {p : Poly}
    (h : sampleNtt H n m = some p) : ∀ c ∈ p, c.toNat < 3329 := by
  obtain ⟨-, rfl⟩ := sampleNtt_eq_some_iff.1 h
  intro c hc
  obtain ⟨d, hd, rfl⟩ := List.mem_map.1 hc
  have hlt : d < 3329 := by simpa using (List.mem_filter.1 (List.mem_of_mem_take hd)).2
  rw [BitVec.toNat_ofNat]
  omega

/-! More blocks (R102, R342). -/

theorem sampleLoop_append {a p : Poly} {b : List Byte} (h : sampleLoop a b = some p) (c : List Byte) :
    sampleLoop a (b ++ c) = some p := by
  induction a, b using sampleLoop.induct with
  | case1 a s0 s1 s2 rest hlt ih =>
    rw [sampleLoop, if_pos hlt] at h
    exact (if_pos hlt).trans (ih h)
  | case2 a s0 s1 s2 rest hfull =>
    rw [sampleLoop_of_full hfull] at h ⊢
    exact h
  | case3 b a hlt hb => simp [sampleLoop, hlt] at h
  | case4 b a hfull hb =>
    rw [sampleLoop_of_full hfull] at h ⊢
    exact h

theorem xofStream_add (H : Config.HashFns) (m : List Byte) (n k : Nat) :
    xofStream H m (n + k) = xofStream H m n ++ (List.range k).flatMap fun j => H.shake128 m (n + j) := by
  rw [xofStream, List.range_add, List.flatMap_append, List.flatMap_map]
  rfl

/-- Settles O56: the loop folds `acceptCand` over the candidates, and a longer stream extends a shorter one. -/
theorem samplerDoesNotDependOnBlockCount : Obligations.SamplerDoesNotDependOnBlockCount := by
  refine ⟨fun H m n => sampleNtt_eq H n m, fun H m n k p h hnk => ?_⟩
  obtain ⟨d, rfl⟩ := Nat.exists_eq_add_of_le hnk
  rw [sampleNtt, xofStream_add]
  exact sampleLoop_append h _

/-! The matrix (R344). -/

theorem vec3Option_of_eq_some {α : Type} {f : Nat → Option α} {x y z : α} (h0 : f 0 = some x) (h1 : f 1 = some y)
    (h2 : f 2 = some z) : vec3Option f = some ⟨x, y, z⟩ := by
  rw [vec3Option, h0, h1, h2]
  rfl

theorem vec3Option_eq_vec3 {α : Type} {f : Nat → Option α} {g : Nat → α} (h : ∀ i, i < 3 → f i = some (g i)) :
    vec3Option f = some (vec3 g) :=
  vec3Option_of_eq_some (h 0 (by decide)) (h 1 (by decide)) (h 2 (by decide))

/-- The messages of T = 1 are those of T = 0 with row and column exchanged. -/
theorem entryMessage_transpose (rho : List Byte) (i j : Nat) :
    entryMessage rho true i j = entryMessage rho false j i := rfl

/-- Settles O57: by `entryMessage_transpose` the two matrices sample the same nine streams. -/
theorem transposedMatrixIsTheTranspose : Obligations.TransposedMatrixIsTheTranspose := by
  intro H n rho a b ha hb
  obtain ⟨⟨h00, h01, h02⟩, ⟨h10, h11, h12⟩, h20, h21, h22⟩ := genMatrix_eq_some ha
  refine Option.some.inj (hb.symm.trans ?_)
  simp only [genMatrix, entryMessage_transpose]
  exact vec3Option_of_eq_some (vec3Option_of_eq_some h00 h10 h20) (vec3Option_of_eq_some h01 h11 h21)
    (vec3Option_of_eq_some h02 h12 h22)

/-! The reads and the waits of a command that samples. -/

theorem withBytes_of_readBytes {s : State} {a len : Nat} {b : List Byte} (h : readBytes s a len = .ok b)
    (k : List Byte → Result) : withBytes s a len k = k b := by
  rw [withBytes, h]

theorem whenSampled_some {α : Type} (s : State) (x : α) (k : α → Result) : whenSampled s (some x) k = k x := rfl

/-- Settles O23: the two commands end in the write of one register. -/
theorem seedCommandsWriteTheirSample : Obligations.SeedCommandsWriteTheirSample := by
  intro s pd nonce seed blocks hseed hhash
  refine ⟨?_, fun p hp => ?_⟩
  · have he : exec (.getnoise false pd nonce) s = finish (writePoly s pd.toNat (cbd2 (prf hashFns seed nonce))) := by
      refine (execGetnoise_of_answer hseed hhash false pd nonce).trans ?_
      rw [forElems_false, noiseElem, Nat.add_zero, BitVec.add_zero]
    rw [he]
    exact finish_writePoly_writes s pd (cbd2_length _)
  · have he : exec (.genentry pd) s = finish (writePoly s pd.toNat p) := by
      refine (withBytes_of_readBytes hseed _).trans ((withHash_answers hhash _).trans ?_)
      rw [genentryMessage, hp, whenSampled_some]
    obtain ⟨t, ht, hread, hkept⟩ := finish_writePoly_writes s pd (sampleNtt_length hp)
    refine ⟨t, he.trans ht, hread, fun j hj => ?_, hkept⟩
    rw [List.getD_eq_getElem _ _ (by rwa [sampleNtt_length hp])]
    exact toNat_lt_of_sampleNtt hp _ (List.getElem_mem _)

/-! Registers in a row (R346). -/

/-- PREG after P[n], P[n+1], … <- the polynomials of a list. -/
def setPolys (m : PolyFile) (n : Nat) : List Poly → PolyFile
  | [] => m
  | p :: ps => setPolys (writeCells m (256 * n) p) (n + 1) ps

theorem readCell_setPolys_outside {m : PolyFile} {n k : Nat} {ps : List Poly} (hp : ∀ p ∈ ps, p.length = 256)
    (hk : k < 256 * n ∨ 256 * (n + ps.length) ≤ k) : readCell (setPolys m n ps) k = readCell m k := by
  induction ps generalizing m n with
  | nil => rfl
  | cons p ps ih =>
    obtain ⟨hp0, hps⟩ := List.forall_mem_cons.1 hp
    rw [List.length_cons] at hk
    exact (ih hps (by omega)).trans (readCell_writeCells_outside _ _ _ _ (by omega))

theorem readCell_setPolys {m : PolyFile} {n i j : Nat} {p : Poly} {ps : List Poly} (hp : ∀ p ∈ ps, p.length = 256)
    (hi : ps[i]? = some p) (hj : j < 256) : readCell (setPolys m n ps) (256 * (n + i) + j) = p[j]? := by
  induction ps generalizing m n i with
  | nil => cases hi
  | cons q ps ih =>
    obtain ⟨hq, hps⟩ := List.forall_mem_cons.1 hp
    cases i with
    | zero =>
      obtain rfl : q = p := Option.some.inj hi
      rw [setPolys, readCell_setPolys_outside hps (by omega), readCell_writeCells, if_pos (by omega), Nat.add_zero,
        Nat.add_sub_cancel_left]
    | succ i =>
      rw [show n + (i + 1) = n + 1 + i by omega]
      exact ih hps hi

/-- The entries of a 3 × 3 matrix, row by row. -/
def rowMajor (entry : Nat → Nat → Poly) : List Poly := (List.range 9).map fun k => entry (k / 3) (k % 3)

theorem rowMajor_getElem? (entry : Nat → Nat → Poly) {i j : Nat} (hi : i < 3) (hj : j < 3) :
    (rowMajor entry)[3 * i + j]? = some (entry i j) := by
  have hdiv : (3 * i + j) / 3 = i := by omega
  have hmod : (3 * i + j) % 3 = j := by omega
  rw [rowMajor, List.getElem?_map, List.getElem?_range (by omega), Option.map_some, hdiv, hmod]

theorem writePoly_of_lt {n : Nat} (hn : n < 32) (s : State) (p : Poly) :
    writePoly s n p = .ok { s with preg := writeCells s.preg (256 * n) p } := writePoly_ok_iff.2 ⟨hn, rfl⟩

theorem writeMatrix_eq_setPolys {n : Nat} (hn : n + 9 ≤ 32) (s : State) (entry : Nat → Nat → Poly) :
    writeMatrix s n (vec3 fun i => vec3 (entry i)) = .ok { s with preg := setPolys s.preg n (rowMajor entry) } := by
  simp (disch := omega) only [writeMatrix, writeVec, writePoly_of_lt]
  rfl

/-- Settles O24: writing the matrix is writing its nine entries, row by row. -/
theorem genmatrixWritesNineEntries : Obligations.GenmatrixWritesNineEntries := by
  intro s pd t seed blocks entry hpd hseed hhash hsample
  have hentry : ∀ i j, i < 3 → j < 3 → sampleNtt hashFns blocks (entryMessage seed t i j) = some (entry i j) := by
    cases t <;> exact hsample
  have hmatrix : genMatrix hashFns blocks seed t = some (vec3 fun i => vec3 (entry i)) :=
    vec3Option_eq_vec3 fun i hi => vec3Option_eq_vec3 fun j hj => hentry i j hi hj
  have he : exec (.genmatrix pd t) s =
      .next (complete { s with preg := setPolys s.preg pd.toNat (rowMajor entry) }) := by
    refine (withBytes_of_readBytes hseed _).trans ((withHash_answers hhash _).trans ?_)
    rw [hmatrix, whenSampled_some, writeMatrix_eq_setPolys (by omega)]
    rfl
  have hlen : ∀ p ∈ rowMajor entry, p.length = 256 := by
    intro p hp
    obtain ⟨k, hk, rfl⟩ := List.mem_map.1 hp
    rw [List.mem_range] at hk
    exact sampleNtt_length (hentry (k / 3) (k % 3) (by omega) (by omega))
  refine ⟨_, he, fun i j hi hj => ?_, completed_complete _, by simp [ControlKept], ⟨rfl, rfl, rfl⟩,
    fun k hk => readCell_setPolys_outside hlen hk, fun _ => rfl⟩
  have hij := rowMajor_getElem? entry hi hj
  rw [Nat.add_assoc]
  exact readPoly_ok_iff.2 ⟨by omega, hlen _ (List.mem_of_getElem? hij), fun k hk => readCell_setPolys hlen hij hk⟩

end Sys2Proof.Machine
end

section
/-! PROOFS. The constant-time utilities (spec/46_ct.md): the mask and the masked select, the comparison of VERIFY, and
what VERIFY and the conditional moves leave. -/

namespace Sys2Proof.Machine

/-! The mask and the masked select (R361). -/

theorem condMask_true (w : Nat) : condMask w true = BitVec.allOnes w := by
  have hone : (BitVec.ofBool true).setWidth w = 1#w := by ext i; simp [BitVec.getElem_one]
  rw [condMask, hone, zero_sub, BitVec.neg_one_eq_allOnes]

theorem condMask_false (w : Nat) : condMask w false = 0#w := by simp [condMask]

theorem maskSelect_eq {w : Nat} (cond : Bool) (x y : BitVec w) : maskSelect cond x y = if cond then y else x := by
  cases cond with
  | false => simp [maskSelect, condMask_false]
  | true => rw [maskSelect, condMask_true, BitVec.allOnes_and, ← BitVec.xor_assoc, BitVec.xor_self, BitVec.zero_xor,
      if_pos rfl]

theorem zipWith_maskSelect {w : Nat} (cond : Bool) {d y : List (BitVec w)} (h : d.length = y.length) :
    List.zipWith (maskSelect cond) d y = if cond then y else d := by
  refine List.ext_getElem (by cases cond <;> simp [h]) fun i _ _ => ?_
  rw [List.getElem_zipWith, maskSelect_eq]
  cases cond <;> rfl

/-- Settles O26. -/
theorem maskSelectsWithoutBranch : Obligations.MaskSelectsWithoutBranch :=
  ⟨fun _ => ⟨rfl, rfl⟩, fun w => ⟨condMask_true w, condMask_false w⟩,
    fun _ cond x y => ⟨rfl, maskSelect_eq cond x y⟩⟩

/-! The comparison of two strings (R360). -/

/-- The collapse takes the sign bit of −r, which is 2^64 − r in 64 bits for r ≠ 0. -/
theorem collapse_eq (r : Byte) : collapse r = decide (r ≠ 0) := by
  have hneg : (-r.setWidth 64).toNat = (2 ^ 64 - r.toNat) % 2 ^ 64 := by
    rw [BitVec.toNat_neg, BitVec.toNat_setWidth_of_le (by decide)]
  have hsign : collapse r = (-r.setWidth 64).msb := by
    rw [collapse, BitVec.getLsbD_ushiftRight, BitVec.msb_eq_getLsbD_last, zero_sub]
  have hr := r.isLt
  have hzero : r ≠ 0 ↔ r.toNat ≠ 0 := BitVec.toNat_ne
  rw [hsign, BitVec.msb_eq_decide, hneg, decide_eq_decide, hzero]
  omega

theorem foldl_or_zipWith_xor_eq_zero_iff {w : Nat} {a b : List (BitVec w)} (h : a.length = b.length) (r : BitVec w) :
    (List.zipWith (· ^^^ ·) a b).foldl (· ||| ·) r = 0 ↔ r = 0 ∧ a = b := by
  induction a generalizing b r with
  | nil => simp [List.length_eq_zero_iff.1 h.symm]
  | cons x a ih =>
    obtain ⟨y, b, rfl⟩ := List.exists_cons_of_length_eq_add_one h.symm
    rw [List.zipWith_cons_cons, List.foldl_cons, ih (Nat.succ.inj h)]
    simp [and_assoc]

theorem verifyBytes_eq {a b : List Byte} (h : a.length = b.length) : verifyBytes a b = decide (a ≠ b) := by
  have hacc : verifyAcc a b = 0 ↔ a = b := (foldl_or_zipWith_xor_eq_zero_iff h 0).trans (and_iff_right rfl)
  rw [verifyBytes, collapse_eq, decide_eq_decide]
  exact not_congr hacc

/-- Settles O25: VERIFY reads the two strings and stores their comparison. -/
theorem verifyTellsWhetherTheStringsDiffer : Obligations.VerifyTellsWhetherTheStringsDiffer := by
  intro s a b ha hb
  have he : exec .verify s = .next (complete { s with ctflag := verifyBytes a b }) :=
    finish_eq_next.2 ⟨_, except_bind_ok.2 ⟨a, ha, except_bind_ok.2 ⟨b, hb, rfl⟩⟩, rfl⟩
  rw [he, verifyBytes_eq ((readBytes_length ha).trans (readBytes_length hb).symm)]
  rfl

/-! The conditional moves (R362 to R364). -/

/-- What a write of bytes leaves, at the end of a command: its string, and nothing else has changed. -/
theorem finish_writeBytes_writes {s : State} {a n : Nat} {bs : List Byte} (hn : bs.length = n) (h : a + n ≤ 8192) :
    ∃ t, finish (writeBytes s a bs) = .next t ∧ readBytes t a n = .ok bs ∧ Completed t ∧ ControlKept s t ∧
      ResultsKept s t ∧ (∀ k, readCell t.preg k = readCell s.preg k) ∧ BmemKeptOutside s t a n := by
  subst hn
  obtain ⟨u, hu⟩ : ∃ u, writeBytes s a bs = .ok u := ⟨_, writeBytes_ok_iff.2 ⟨h, rfl⟩⟩
  have hread : readBytes (complete u) a bs.length = .ok bs := (readBytes_writeBytes_self hu : readBytes u _ _ = _)
  refine ⟨complete u, finish_eq_next.2 ⟨u, hu, rfl⟩, hread, completed_complete u, ?_⟩
  obtain ⟨-, rfl⟩ := writeBytes_ok_iff.1 hu
  exact ⟨by simp [ControlKept], ⟨rfl, rfl, rfl⟩, fun _ => rfl, readCell_writeCells_outside _ _ _⟩

/-- With both strings read, CMOVB writes the selected one at ARG0. -/
theorem exec_cmovb_eq_writeBytes {s : State} {d y : List Byte} (hd : readBytes s s.arg0.toNat s.arg2.toNat = .ok d)
    (hy : readBytes s s.arg1.toNat s.arg2.toNat = .ok y) (csel : CSel) :
    exec (.cmovb csel) s = finish (writeBytes s s.arg0.toNat (if condition csel s then y else d)) := by
  have he : exec (.cmovb csel) s = execCmovb csel s := rfl
  simp only [he, execCmovb, arg0Off, arg1Off, arg2Len, hd, hy]
  rw [← zipWith_maskSelect _ ((readBytes_length hd).trans (readBytes_length hy).symm)]
  rfl

/-- Settles O27: whichever string is selected, it has the length of the destination. -/
theorem cmovbCopiesWhenTheConditionHolds : Obligations.CmovbCopiesWhenTheConditionHolds := by
  intro s csel d y hd hy
  obtain ⟨hrange, hlen, -⟩ := readBytes_ok_iff.1 hd
  have hsel : (if condition csel s then y else d).length = s.arg2.toNat := by
    split
    · exact readBytes_length hy
    · exact hlen
  rw [exec_cmovb_eq_writeBytes hd hy]
  exact finish_writeBytes_writes hsel hrange

theorem exec_pcmov (v : Bool) (pd pa : PReg) (csel : CSel) (s : State) :
    exec (.pcmov v pd pa csel) s =
      finish (forElems v (zipElem (List.zipWith (maskSelect (condition csel s))) pd pd pa) s) := rfl

theorem exec_cmov16 (csel : CSel) (s : State) : exec (.cmov16 csel) s =
    .next (complete { s with sr0 := sext32 (lo16 (if condition csel s then s.sb else s.sa)) }) := by
  have he : exec (.cmov16 csel) s = execCmov16 csel s := rfl
  rw [he, execCmov16, maskSelect_eq, apply_ite lo16]

/-- Settles O28: PCMOV is a two-source command whose first source is its destination. -/
theorem cmov16AndPcmovSelectByTheCondition : Obligations.Cmov16AndPcmovSelectByTheCondition := by
  refine fun s csel => ⟨exec_cmov16 csel s, fun pd pa d a hd ha => ?_⟩
  have hlen := (readPoly_length hd).trans (readPoly_length ha).symm
  rw [exec_pcmov, ← zipWith_maskSelect _ hlen]
  exact finish_zipElem_writes hd ha (by simp [readPoly_length hd, readPoly_length ha])

end Sys2Proof.Machine
end

section
/-! PROOFS. Byte strings that stand in a row in BMEM, and the parts of a byte string (spec/00_scope.md R14, R15,
spec/10_state.md R47 and R48). -/

namespace Sys2Proof.Machine

/-! Strings in a row (R14, R47, R48). -/

theorem cellsFrom_append {α : Type} (a : Nat) (x y : List α) :
    cellsFrom a (x ++ y) = cellsFrom a x ++ cellsFrom (a + x.length) y := by
  induction x generalizing a with
  | nil => rfl
  | cons v x ih => simp [cellsFrom, ih, Nat.add_assoc, Nat.add_comm 1]

/-- Before the end of a written string stand the cells before it and its own. -/
theorem filter_lt_writeCells {α : Type} (m : List (Nat × α)) (a : Nat) (x : List α) :
    (writeCells m a x).filter (fun c => c.1 < a + x.length) = m.filter (fun c => c.1 < a) ++ cellsFrom a x := by
  have hbefore : (m.filter fun c => c.1 < a).filter (fun c => c.1 < a + x.length) = m.filter (fun c => c.1 < a) :=
    List.filter_eq_self.2 fun c hc =>
      decide_eq_true (Nat.lt_add_right _ (of_decide_eq_true (List.mem_filter.1 hc).2))
  have hx : (cellsFrom a x).filter (fun c => c.1 < a + x.length) = cellsFrom a x :=
    List.filter_eq_self.2 fun c hc => decide_eq_true (cellsFrom_mem hc).2
  have hbehind : (m.filter fun c => a + x.length ≤ c.1).filter (fun c => c.1 < a + x.length) = [] := by simp
  rw [writeCells, List.filter_append, List.filter_append, hbefore, hx, hbehind, List.append_nil]

/-- Behind a written string stand the old cells. -/
theorem filter_le_writeCells {α : Type} (m : List (Nat × α)) {a n : Nat} {x : List α} (hn : a + x.length ≤ n) :
    (writeCells m a x).filter (fun c => n ≤ c.1) = m.filter (fun c => n ≤ c.1) := by
  have hbefore : (m.filter fun c => c.1 < a).filter (fun c => n ≤ c.1) = [] :=
    List.filter_eq_nil_iff.2 fun c hc hle => by
      have hlt := of_decide_eq_true (List.mem_filter.1 hc).2
      rw [decide_eq_true_eq] at hle
      omega
  have hx : (cellsFrom a x).filter (fun c => n ≤ c.1) = [] :=
    List.filter_eq_nil_iff.2 fun c hc hle => by
      have hlt := (cellsFrom_mem hc).2
      rw [decide_eq_true_eq] at hle
      omega
  have hbehind : (m.filter fun c => a + x.length ≤ c.1).filter (fun c => n ≤ c.1) =
      m.filter (fun c => n ≤ c.1) := by
    rw [List.filter_filter]
    refine List.filter_congr fun c _ => ?_
    rw [← Bool.decide_and, decide_eq_decide]
    omega
  rw [writeCells, List.filter_append, List.filter_append, hbefore, hx, hbehind, List.nil_append, List.nil_append]

/-- Writing a string right behind another is writing the two as one. -/
theorem writeCells_writeCells_behind {α : Type} (m : List (Nat × α)) (a : Nat) (x y : List α) :
    writeCells (writeCells m a x) (a + x.length) y = writeCells m a (x ++ y) := by
  rw [writeCells, filter_lt_writeCells, filter_le_writeCells m (Nat.le_add_right _ _), writeCells, cellsFrom_append,
    List.length_append, Nat.add_assoc, List.append_assoc, List.append_assoc]

theorem writeBytes_writeBytes_behind {s : State} {a b : Nat} {x y : List Byte} (hb : b = a + x.length)
    (h : b + y.length ≤ 8192) :
    (writeBytes s a x >>= fun u => writeBytes u b y) = writeBytes s a (x ++ y) := by
  subst hb
  have hxy : writeBytes s a (x ++ y) = .ok { s with bmem := writeCells s.bmem a (x ++ y) } :=
    writeBytes_ok_iff.2 ⟨by rw [List.length_append]; omega, rfl⟩
  rw [hxy, ← writeCells_writeCells_behind]
  exact except_bind_ok.2 ⟨_, writeBytes_ok_iff.2 ⟨by omega, rfl⟩, writeBytes_ok_iff.2 ⟨h, rfl⟩⟩

/-- Where a concatenation stands, its parts stand in a row. -/
theorem readBytes_of_append {s : State} {a m n : Nat} {x y : List Byte} (hx : x.length = m)
    (h : readBytes s a (m + n) = .ok (x ++ y)) : readBytes s a m = .ok x ∧ readBytes s (a + m) n = .ok y := by
  obtain ⟨hr, hl, h⟩ := readBytes_ok_iff.1 h
  rw [List.length_append] at hl
  refine ⟨readBytes_ok_iff.2 ⟨by omega, hx, fun j hj => ?_⟩,
    readBytes_ok_iff.2 ⟨by omega, by omega, fun j hj => ?_⟩⟩
  · rw [h j (by omega), List.getElem?_append_left (by omega)]
  · rw [Nat.add_assoc, h _ (by omega), List.getElem?_append_right (by omega), hx, Nat.add_sub_cancel_left]

/-! Parts of byte strings (R15, R290). -/

theorem bitAt_drop (b : List Byte) (n r : Nat) : bitAt (b.drop n) r = bitAt b (8 * n + r) := by
  rw [bitAt, bitAt, List.getD_eq_getElem?_getD, List.getElem?_drop, ← List.getD_eq_getElem?_getD,
    Nat.mul_add_div (by decide), Nat.mul_add_mod]

theorem bitAt_take (b : List Byte) {n r : Nat} (hr : r < 8 * n) : bitAt (b.take n) r = bitAt b r := by
  rw [bitAt, bitAt, List.getD_eq_getElem?_getD, List.getElem?_take_of_lt (by omega), ← List.getD_eq_getElem?_getD]

theorem bitAt_part (b : List Byte) {n r : Nat} (hr : r < 8 * n) (i : Nat) :
    bitAt (part n i b) r = bitAt b (8 * n * i + r) := by
  rw [part, bitAt_take _ hr, bitAt_drop, Nat.mul_assoc]

/-- Three strings of one length and a tail, each string found behind those before it. -/
theorem drop_concat {n : Nat} {f : Nat → List Byte} (hf : ∀ i, (f i).length = n) (tail : List Byte) :
    (Vec3.concat (vec3 f) ++ tail).drop n = f 1 ++ (f 2 ++ tail) ∧
      (Vec3.concat (vec3 f) ++ tail).drop (n * 2) = f 2 ++ tail ∧
      (Vec3.concat (vec3 f) ++ tail).drop (n * 3) = tail := by
  have h1 : (Vec3.concat (vec3 f) ++ tail).drop n = f 1 ++ (f 2 ++ tail) := by
    simp only [Vec3.concat, vec3, List.append_assoc, List.drop_left' (hf 0)]
  have h2 : (Vec3.concat (vec3 f) ++ tail).drop (n * 2) = f 2 ++ tail := by
    rw [Nat.mul_two, ← List.drop_drop, h1, List.drop_left' (hf 1)]
  refine ⟨h1, h2, ?_⟩
  rw [Nat.mul_succ, ← List.drop_drop, h2, List.drop_left' (hf 2)]

theorem part_concat {n : Nat} {f : Nat → List Byte} (hf : ∀ i, (f i).length = n) (tail : List Byte) {i : Nat}
    (hi : i < 3) : part n i (Vec3.concat (vec3 f) ++ tail) = f i := by
  obtain ⟨h1, h2, -⟩ := drop_concat hf tail
  rw [part]
  interval_cases i
  · rw [Nat.mul_zero, List.drop_zero, Vec3.concat, List.append_assoc]
    exact List.take_left' (hf 0)
  · rw [Nat.mul_one, h1, List.take_left' (hf 1)]
  · rw [h2, List.take_left' (hf 2)]

theorem slice_eq_drop {b : List Byte} {i j : Nat} (h : b.length = j) : slice b i j = b.drop i := by
  rw [slice, List.take_of_length_le (by rw [List.length_drop, h])]

end Sys2Proof.Machine
end

section
/-! PROOFS. The KEM engine (spec/47_kem.md): what PKE_KeyGen, PKE_Enc and PKE_Dec compute, coefficient by coefficient,
and what KEYGEN, ENCAPS and DECAPS leave. -/

namespace Sys2Proof.Machine

/-! Reduced coefficients (R222, R291). -/

theorem norm_barrett (c : Coef) : norm (barrett c) = (c.toInt % 3329).toNat := by
  have h := toInt_barrett c
  have hn := norm_eq (c := barrett c) (by omega) (by omega)
  omega

/-- On a reduced polynomial Dec12 undoes Enc12. -/
theorem dec12_enc12_polyReduce {a : Poly} (ha : a.length = 256) : dec12 (enc12 (polyReduce a)) = polyReduce a := by
  have hb : ∀ c ∈ polyReduce a, 0 ≤ c.toInt ∧ c.toInt < 3329 := by
    intro c hc
    obtain ⟨x, -, rfl⟩ := List.mem_map.1 hc
    rw [toInt_barrett]
    omega
  rw [dec12_enc12 (by simpa) fun c hc => by have := hb c hc; omega]
  refine (List.map_congr_left fun c hc => ?_).trans (List.map_id _)
  rw [Int.emod_eq_of_lt (hb c hc).1 (hb c hc).2, BitVec.ofInt_toInt, id]

/-! The matrix (R344). -/

theorem genMatrix_of_isMatrix {blocks : Nat} {rho : List Byte} {t : Bool} {A : Nat → Nat → Poly}
    (h : IsMatrix blocks rho t A) : genMatrix hashFns blocks rho t = some (vec3 fun i => vec3 (A i)) := by
  have hentry : ∀ i j, i < 3 → j < 3 → sampleNtt hashFns blocks (entryMessage rho t i j) = some (A i j) := by
    cases t <;> exact h
  exact vec3Option_eq_vec3 fun i hi => vec3Option_eq_vec3 fun j hj => hentry i j hi hj

/-! The model's words and the statements' (R101, R381). -/

theorem hashG_eq (m : List Byte) : hashG hashFns m = ((hashFns.sha3_512 m).take 32, (hashFns.sha3_512 m).drop 32) := by
  rw [hashG, slice_eq_drop (hashFns.sha3_512_length m)]
  rfl

theorem noise_eq_prfNoise (seed : List Byte) (n : Nat) : noise hashFns seed n = prfNoise seed n := rfl

theorem pntt_prfNoise (seed : List Byte) (n : Nat) : pntt (prfNoise seed n) = prfNoiseHat seed n := rfl

theorem mapAll_vec3 {α β : Type} (g : α → β) (f : Nat → α) :
    Vec3.mapAll g (vec3 f) = vec3 fun i => g (f i) := rfl

theorem zipAll_vec3 {α β γ : Type} (g : α → β → γ) (f : Nat → α) (f' : Nat → β) :
    Vec3.zipAll g (vec3 f) (vec3 f') = vec3 fun i => g (f i) (f' i) := rfl

theorem prfNoise_length (seed : List Byte) (n : Nat) : (prfNoise seed n).length = 256 := cbd2_length _

theorem prfNoiseHat_length (seed : List Byte) (n : Nat) : (prfNoiseHat seed n).length = 256 := by
  rw [prfNoiseHat, polyReduce_length, ntt_length, prfNoise_length]

theorem toInt_prfNoise_bounds (seed : List Byte) (n : Nat) {j : Nat} (hj : j < 256) :
    -2 ≤ ((prfNoise seed n).getD j 0).toInt ∧ ((prfNoise seed n).getD j 0).toInt ≤ 2 :=
  toInt_cbd2_getD_bounds _ hj

theorem toInt_prfNoiseHat_bounds (seed : List Byte) (n j : Nat) :
    0 ≤ ((prfNoiseHat seed n).getD j 0).toInt ∧ ((prfNoiseHat seed n).getD j 0).toInt < 3329 := by
  rw [prfNoiseHat, polyReduce_getD, toInt_barrett]
  omega

/-! PKE_KeyGen (R381). -/

/-- t̂[i] = A[i]·ŝ·R + ê[i], reduced (R381). -/
def keyPoly (A : Nat → Nat → Poly) (sigma : List Byte) (i : Nat) : Poly :=
  polyReduce (polyAdd (polyToMont (polyVecAcc (vecOf (A i)) (vecOf (prfNoiseHat sigma)))) (prfNoiseHat sigma (3 + i)))

theorem pkeKeyGen_of_isMatrix {blocks : Nat} {d : List Byte} {A : Nat → Nat → Poly}
    (h : IsMatrix blocks (keygenSeeds hashFns d).1 false A) : pkeKeyGen hashFns blocks d =
      some (Vec3.concat (vec3 fun i => enc12 (keyPoly A (keygenSeeds hashFns d).2 i)) ++ (keygenSeeds hashFns d).1,
        Vec3.concat (vec3 fun i => enc12 (prfNoiseHat (keygenSeeds hashFns d).2 i))) := by
  simp only [pkeKeyGen, genMatrix_of_isMatrix h, Option.bind_eq_bind, Option.bind_some, noise_eq_prfNoise, mapAll_vec3,
    zipAll_vec3, pntt_prfNoise]
  rfl

/-- The factor R of PolyToMont is 2^16 mod q, and the sum with ê does not wrap. -/
theorem toInt_keyPoly_getD (A : Nat → Nat → Poly) (sigma : List Byte) (i : Nat) {j : Nat} (hj : j < 256) :
    ((keyPoly A sigma i).getD j 0).toInt =
      (((polyVecAcc (vecOf (A i)) (vecOf (prfNoiseHat sigma))).getD j 0).toInt * 65536 +
        ((prfNoiseHat sigma (3 + i)).getD j 0).toInt) % 3329 := by
  have he := toInt_prfNoiseHat_bounds sigma (3 + i) j
  have hm := toInt_fqmul_1353_bounds ((polyVecAcc (vecOf (A i)) (vecOf (prfNoiseHat sigma))).getD j 0)
  have hc := toInt_fqmul_1353_congr ((polyVecAcc (vecOf (A i)) (vecOf (prfNoiseHat sigma))).getD j 0)
  rw [keyPoly, polyReduce_getD, polyAdd_getD (by simpa) (by rwa [prfNoiseHat_length]), polyToMont_getD,
    toInt_barrett, toInt_add_of_le (by omega) (by omega)]
  omega

theorem isKeyPair_concat (A : Nat → Nat → Poly) {rho sigma : List Byte} (hrho : rho.length = 32) :
    IsKeyPair A rho sigma (Vec3.concat (vec3 fun i => enc12 (keyPoly A sigma i)) ++ rho)
      (Vec3.concat (vec3 fun i => enc12 (prfNoiseHat sigma i))) where
  pkLength := by simp [Vec3.concat, vec3, hrho]
  skcLength := by simp [Vec3.concat, vec3]
  seed := (drop_concat (fun i => enc12_length (keyPoly A sigma i)) rho).2.2
  secretKey i hi := by
    have hpart := part_concat (fun i => enc12_length (prfNoiseHat sigma i)) [] hi
    rw [List.append_nil] at hpart
    rw [hpart]
    exact dec12_enc12_polyReduce (by rw [ntt_length, prfNoise_length])
  publicKey i j hi hj := by
    rw [part_concat (fun i => enc12_length (keyPoly A sigma i)) rho hi, ← toInt_keyPoly_getD A sigma i hj]
    exact congrArg (fun p : Poly => (p.getD j 0).toInt) (dec12_enc12_polyReduce (by simp [prfNoiseHat_length]))

theorem pkeKeyGen_isKeyPair {blocks : Nat} {d : List Byte} {A : Nat → Nat → Poly}
    (h : IsMatrix blocks (keygenSeeds hashFns d).1 false A) :
    ∃ pk skc, pkeKeyGen hashFns blocks d = some (pk, skc) ∧
      IsKeyPair A (keygenSeeds hashFns d).1 (keygenSeeds hashFns d).2 pk skc :=
  ⟨_, _, pkeKeyGen_of_isMatrix h, isKeyPair_concat A (hashG_fst_length _ _)⟩

/-! PKE_Enc (R382). -/

/-- u[i] = Intt(A[i]·r̂) + e1[i], reduced (R382). -/
def cipherU (A : Nat → Nat → Poly) (coins : List Byte) (i : Nat) : Poly :=
  polyReduce (polyAdd (intt (polyVecAcc (vecOf (A i)) (vecOf (prfNoiseHat coins)))) (prfNoise coins (3 + i)))

/-- v = Intt(t̂·r̂) + e2 + m, reduced (R382). -/
def cipherV (pk m coins : List Byte) : Poly :=
  polyReduce (polyAdd
    (polyAdd (intt (polyVecAcc (vecOf fun i => dec12 (part 384 i pk)) (vecOf (prfNoiseHat coins)))) (prfNoise coins 6))
    (fromMsg m))

theorem pkeEnc_of_isMatrix {blocks : Nat} {pk m coins : List Byte} {A : Nat → Nat → Poly} (hpk : pk.length = 1184)
    (h : IsMatrix blocks (pk.drop 1152) true A) : pkeEnc hashFns blocks pk m coins =
      some (Vec3.concat (vec3 fun i => comp10 (cipherU A coins i)) ++ comp4 (cipherV pk m coins)) := by
  simp only [pkeEnc, slice_eq_drop hpk, genMatrix_of_isMatrix h, Option.bind_eq_bind, Option.bind_some,
    noise_eq_prfNoise, mapAll_vec3, zipAll_vec3, pntt_prfNoise]
  rfl

theorem bitAt_comp10_polyReduce (a : Poly) {j k : Nat} (hj : j < 256) (hk : k < 10) :
    bitAt (comp10 (polyReduce a)) (10 * j + k) =
      (roundCompress 10 ((a.getD j 0).toInt % 3329).toNat).testBit k := by
  rw [bitAt_comp10 _ hj hk, polyReduce_getD, norm_barrett, compress10_eq_round (by omega)]

theorem bitAt_comp4_polyReduce (a : Poly) {j k : Nat} (hj : j < 256) (hk : k < 4) :
    bitAt (comp4 (polyReduce a)) (4 * j + k) = (roundCompress 4 ((a.getD j 0).toInt % 3329).toNat).testBit k := by
  rw [bitAt_comp4 _ hj hk, polyReduce_getD, norm_barrett, compress4_eq_round (by omega)]

theorem toInt_intt_getD_bounds {a : Poly} (ha : a.length = 256) {j : Nat} (hj : j < 256) :
    -3329 < ((intt a).getD j 0).toInt ∧ ((intt a).getD j 0).toInt < 3329 := by
  have hl : j < (intt a).length := by rwa [intt_length, ha]
  rw [List.getD_eq_getElem _ _ hl]
  exact toInt_intt_bounds _ (List.getElem_mem hl)

theorem toInt_fromMsg_getD (m : List Byte) {j : Nat} (hj : j < 256) :
    ((fromMsg m).getD j 0).toInt = if bitAt m j then 1665 else 0 := by
  rw [fromMsg_getD m hj]
  cases bitAt m j <;> rfl

/-- R382's formula for u: the sum with e1 does not wrap. -/
theorem toInt_polyAdd_intt_noise {a : Poly} (ha : a.length = 256) (seed : List Byte) (n : Nat) {j : Nat}
    (hj : j < 256) : ((polyAdd (intt a) (prfNoise seed n)).getD j 0).toInt =
      ((intt a).getD j 0).toInt + ((prfNoise seed n).getD j 0).toInt := by
  have hi := toInt_intt_getD_bounds ha hj
  have he := toInt_prfNoise_bounds seed n hj
  rw [polyAdd_getD (by rwa [intt_length, ha]) (by rwa [prfNoise_length]), toInt_add_of_le (by omega) (by omega)]

/-- R382's formula for v: neither sum wraps. -/
theorem toInt_polyAdd_noise_fromMsg {a : Poly} (ha : a.length = 256) (seed : List Byte) (n : Nat) (m : List Byte)
    {j : Nat} (hj : j < 256) : ((polyAdd (polyAdd (intt a) (prfNoise seed n)) (fromMsg m)).getD j 0).toInt =
      ((intt a).getD j 0).toInt + ((prfNoise seed n).getD j 0).toInt + if bitAt m j then 1665 else 0 := by
  have hi := toInt_intt_getD_bounds ha hj
  have he := toInt_prfNoise_bounds seed n hj
  have hs := toInt_polyAdd_intt_noise ha seed n hj
  have hm : 0 ≤ ((fromMsg m).getD j 0).toInt ∧ ((fromMsg m).getD j 0).toInt ≤ 1665 := by
    rw [toInt_fromMsg_getD m hj]
    split <;> decide
  rw [polyAdd_getD (by simp [ha, prfNoise_length, hj]) (by simpa), toInt_add_of_le (by omega) (by omega), hs,
    toInt_fromMsg_getD m hj]

theorem isCiphertext_concat (A : Nat → Nat → Poly) (pk m coins : List Byte) :
    IsCiphertext A pk m coins
      (Vec3.concat (vec3 fun i => comp10 (cipherU A coins i)) ++ comp4 (cipherV pk m coins)) where
  length := by simp [Vec3.concat, vec3]
  u i j k hi hj hk := by
    rw [Nat.add_assoc, ← bitAt_part _ (n := 320) (by omega), part_concat (fun i => comp10_length _) _ hi, cipherU,
      bitAt_comp10_polyReduce _ hj hk, toInt_polyAdd_intt_noise (polyVecAcc_length _ _) coins _ hj]
  v j k hj hk := by
    rw [Nat.add_assoc, ← bitAt_drop _ 960, (drop_concat (n := 320) (fun i => comp10_length _) _).2.2, cipherV,
      bitAt_comp4_polyReduce _ hj hk, toInt_polyAdd_noise_fromMsg (polyVecAcc_length _ _) coins _ m hj]

theorem pkeEnc_isCiphertext {blocks : Nat} {pk : List Byte} {A : Nat → Nat → Poly} (hpk : pk.length = 1184)
    (h : IsMatrix blocks (pk.drop 1152) true A) (m coins : List Byte) :
    ∃ c, pkeEnc hashFns blocks pk m coins = some c ∧ IsCiphertext A pk m coins c :=
  ⟨_, pkeEnc_of_isMatrix hpk h, isCiphertext_concat A pk m coins⟩

/-! PKE_Dec (R383). -/

theorem roundCompress_one_testBit {x : Nat} (hx : x < 3329) :
    (roundCompress 1 x).testBit 0 = decide (833 ≤ x ∧ x ≤ 2496) := by
  rw [roundCompress, Nat.testBit_zero, decide_eq_decide]
  omega

theorem bitAt_toMsg_polyReduce (a : Poly) {j : Nat} (hj : j < 256) :
    bitAt (toMsg (polyReduce a)) j =
      decide (833 ≤ (a.getD j 0).toInt % 3329 ∧ (a.getD j 0).toInt % 3329 ≤ 2496) := by
  rw [bitAt_toMsg _ hj, polyReduce_getD, norm_barrett, compress1_eq_round (by omega),
    roundCompress_one_testBit (by omega), decide_eq_decide]
  omega

theorem polySub_getD {a b : Poly} {j : Nat} (ha : j < a.length) (hb : j < b.length) :
    (polySub a b).getD j 0 = a.getD j 0 - b.getD j 0 := by
  rw [List.getD_eq_getElem _ _ (by rw [polySub_length]; exact lt_min ha hb), List.getD_eq_getElem _ _ ha,
    List.getD_eq_getElem _ _ hb]
  simp [polySub_eq]

theorem toInt_decomp4_getD_bounds (b : List Byte) {j : Nat} (hj : j < 256) :
    0 ≤ ((decomp4 b).getD j 0).toInt ∧ ((decomp4 b).getD j 0).toInt ≤ 3329 := by
  have hy := (bitSlice_lt b (4 * j) 4).le
  rw [decomp4_getD b hj, toInt_decompress hy]
  omega

theorem pkeDec_isDecryption (skc : List Byte) {c : List Byte} (hc : c.length = 1088) :
    IsDecryption skc c (pkeDec skc c) where
  length := pkeDec_length skc c
  bits j hj := by
    intro uHat w x
    have hw : -3329 < (w.getD j 0).toInt ∧ (w.getD j 0).toInt < 3329 :=
      toInt_intt_getD_bounds (polyVecAcc_length _ _) hj
    have hv := toInt_decomp4_getD_bounds (c.drop 960) hj
    have hx : ((polySub (decomp4 (c.drop 960)) w).getD j 0).toInt % 3329 = x := by
      rw [polySub_getD (by simpa) (by simpa [w]), toInt_sub_of_le (by omega) (by omega)]
    have hdec : pkeDec skc c = toMsg (polyReduce (polySub (decomp4 (c.drop 960)) w)) := by
      rw [← slice_eq_drop hc]
      rfl
    rw [hdec, bitAt_toMsg_polyReduce _ hj, hx]

/-! The commands (R384 to R386). -/

theorem kemKeygen_of_pkeKeyGen {blocks : Nat} {coins pk skc : List Byte} (hcoins : coins.length = 64)
    (hkey : pkeKeyGen hashFns blocks (coins.take 32) = some (pk, skc)) :
    kemKeygen hashFns blocks coins = some (pk, skc ++ (pk ++ (hashFns.sha3_256 pk ++ coins.drop 32))) := by
  have hd : slice coins 0 32 = coins.take 32 := rfl
  rw [kemKeygen, slice_eq_drop hcoins, hd, hkey]
  rfl

theorem kemEncaps_of_pkeEnc {blocks : Nat} {pk m c r : List Byte}
    (hr : hashFns.sha3_512 (m ++ hashFns.sha3_256 pk) = r) (henc : pkeEnc hashFns blocks pk m (r.drop 32) = some c) :
    kemEncaps hashFns blocks pk m = some (c, r.take 32) := by
  simp only [kemEncaps, hashH, hashG_eq, hr, henc]
  rfl

/-- The select of R386: K' where the re-encryption is the ciphertext, J(z, c) elsewhere. -/
theorem kemDecaps_of_pkeEnc {blocks : Nat} {sk c c' r : List Byte} (hsk : sk.length = 2400) (hc : c.length = c'.length)
    (hr : hashFns.sha3_512 (pkeDec (sk.take 1152) c ++ (sk.drop 2336).take 32) = r)
    (henc : pkeEnc hashFns blocks ((sk.drop 1152).take 1184) (pkeDec (sk.take 1152) c) (r.drop 32) = some c') :
    kemDecaps hashFns blocks sk c =
      some (if c' = c then r.take 32 else hashFns.shake256 (sk.drop 2368 ++ c) 32) := by
  have hcpa : skCpa sk = sk.take 1152 := rfl
  have hpk : skPk sk = (sk.drop 1152).take 1184 := rfl
  have hh : skH sk = (sk.drop 2336).take 32 := rfl
  have hz : skZ sk = sk.drop 2368 := slice_eq_drop hsk
  have hlen : (r.take 32).length = (hashJ hashFns (sk.drop 2368) c).length := by
    rw [← hr, List.length_take, hashFns.sha3_512_length, hashJ_length]
    rfl
  have hselect : List.zipWith (maskSelect (verifyBytes c c')) (r.take 32) (hashJ hashFns (sk.drop 2368) c) =
      if c' = c then r.take 32 else hashFns.shake256 (sk.drop 2368 ++ c) 32 := by
    rw [verifyBytes_eq hc, zipWith_maskSelect _ hlen]
    simp only [decide_eq_true_eq, ite_not, eq_comm (a := c), hashJ]
  rw [← hselect]
  simp only [kemDecaps, hcpa, hpk, hh, hz, hashG_eq, hr, henc]
  rfl

/-- PK and SK stand in a row from 0x0000 on, so KEYGEN writes one string (R47, R48). -/
theorem exec_keygen_of_pkeKeyGen {s : State} {coins pk skc : List Byte} {blocks : Nat}
    (hcoins : readBytes s 0x1260 64 = .ok coins) (hhash : s.hash = .answers blocks)
    (hkey : pkeKeyGen hashFns blocks (coins.take 32) = some (pk, skc)) : exec .keygen s =
      finish (writeBytes s 0x0000 (pk ++ (skc ++ (pk ++ (hashFns.sha3_256 pk ++ coins.drop 32))))) := by
  have hkem := kemKeygen_of_pkeKeyGen (readBytes_length hcoins) hkey
  obtain ⟨hpk, hsk⟩ := kemKeygen_length (readBytes_length hcoins) hkem
  refine (withBytes_of_readBytes hcoins _).trans ((withHash_answers hhash _).trans ?_)
  rw [hkem, whenSampled_some]
  exact congrArg finish (writeBytes_writeBytes_behind (by rw [hpk]; rfl) (by rw [hsk]; decide))

/-- CT and SS stand in a row from 0x0E00 on, so ENCAPS writes one string (R47). -/
theorem exec_encaps_of_kemEncaps {s : State} {pk m c k : List Byte} {blocks : Nat}
    (hpk : readBytes s 0x0000 1184 = .ok pk) (hm : readBytes s 0x1260 32 = .ok m) (hhash : s.hash = .answers blocks)
    (hkem : kemEncaps hashFns blocks pk m = some (c, k)) : exec .encaps s = finish (writeBytes s 0x0E00 (c ++ k)) := by
  obtain ⟨hc, hk⟩ := kemEncaps_length hkem
  refine (withBytes_of_readBytes hpk _).trans ((withBytes_of_readBytes hm _).trans
    ((withHash_answers hhash _).trans ?_))
  rw [hkem, whenSampled_some]
  exact congrArg finish (writeBytes_writeBytes_behind (by rw [hc]; rfl) (by rw [hk]; decide))

theorem exec_decaps_of_kemDecaps {s : State} {sk c k : List Byte} {blocks : Nat}
    (hsk : readBytes s 0x04A0 2400 = .ok sk) (hc : readBytes s 0x0E00 1088 = .ok c) (hhash : s.hash = .answers blocks)
    (hkem : kemDecaps hashFns blocks sk c = some k) : exec .decaps s = finish (writeBytes s 0x1240 k) := by
  refine (withBytes_of_readBytes hsk _).trans ((withBytes_of_readBytes hc _).trans
    ((withHash_answers hhash _).trans ?_))
  rw [hkem, whenSampled_some]
  rfl

/-- Settles O29: the five parts of the one string written are the key pair of `pkeKeyGen_isKeyPair`, H(pk) and z. -/
theorem keygenWritesPkAndSk : Obligations.KeygenWritesPkAndSk := by
  intro s coins blocks A hcoins hhash g hmatrix
  have hseeds : keygenSeeds hashFns (coins.take 32) = (g.take 32, g.drop 32) := hashG_eq _
  obtain ⟨pk, skc, hkey, hpair⟩ := pkeKeyGen_isKeyPair (d := coins.take 32) (A := A) (blocks := blocks)
    (by rwa [hseeds])
  rw [hseeds] at hpair
  obtain ⟨t, ht, hread, hdone, hcontrol, hresults, hpreg, hbmem⟩ :=
    finish_writeBytes_writes (s := s) (a := 0x0000) (n := 0x0E00)
      (bs := pk ++ (skc ++ (pk ++ (hashFns.sha3_256 pk ++ coins.drop 32))))
      (by simp [hpair.pkLength, hpair.skcLength, hashFns.sha3_256_length, readBytes_length hcoins]) (by decide)
  obtain ⟨hpk, hread⟩ := readBytes_of_append (n := 2400) hpair.pkLength hread
  obtain ⟨hskc, hread⟩ := readBytes_of_append (n := 1248) hpair.skcLength hread
  obtain ⟨hcopy, hread⟩ := readBytes_of_append (n := 64) hpair.pkLength hread
  obtain ⟨hh, hz⟩ := readBytes_of_append (n := 32) (hashFns.sha3_256_length pk) hread
  exact ⟨t, pk, skc, (exec_keygen_of_pkeKeyGen hcoins hhash hkey).trans ht, hkey, hpair, hpk, hskc, hcopy, hh, hz,
    hdone, hcontrol, hresults, hpreg, hbmem⟩

/-- Settles O30: the two parts of the one string written are the ciphertext of `pkeEnc_isCiphertext` and K. -/
theorem encapsWritesCtAndSs : Obligations.EncapsWritesCtAndSs := by
  intro s pk m blocks A hpk hm hhash hmatrix g
  obtain ⟨c, henc, hcipher⟩ := pkeEnc_isCiphertext (readBytes_length hpk) hmatrix m (g.drop 32)
  have hkem := kemEncaps_of_pkeEnc rfl henc
  obtain ⟨t, ht, hread, hdone, hcontrol, hresults, hpreg, hbmem⟩ :=
    finish_writeBytes_writes (s := s) (a := 0x0E00) (n := 1088 + 32) (bs := c ++ g.take 32)
      (by rw [List.length_append, hcipher.length, (kemEncaps_length hkem).2]) (by decide)
  obtain ⟨hct, hss⟩ := readBytes_of_append hcipher.length hread
  exact ⟨t, c, (exec_encaps_of_kemEncaps hpk hm hhash hkem).trans ht, henc, hcipher, hct, hss, hdone, hcontrol,
    hresults, hpreg, hbmem⟩

/-- Settles O31: `kemDecaps_of_pkeEnc` selects the 32 bytes of SS, and DECAPS writes either choice alike. -/
theorem decapsRejectsImplicitly : Obligations.DecapsRejectsImplicitly := by
  intro s sk c blocks A hsk hc hhash hmatrix pk m' g
  have hskLength := readBytes_length hsk
  have hcLength := readBytes_length hc
  have hpkLength : pk.length = 1184 := by simp [pk, hskLength]
  have hrho : pk.drop 1152 = (sk.drop 2304).take 32 := by simp only [pk, List.drop_take, List.drop_drop]
  obtain ⟨c', henc, hcipher⟩ := pkeEnc_isCiphertext hpkLength (hrho ▸ hmatrix) m' (g.drop 32)
  have hkem := kemDecaps_of_pkeEnc hskLength (hcLength.trans hcipher.length.symm) rfl henc
  obtain ⟨t, ht, hkept⟩ :=
    finish_writeBytes_writes (s := s) (a := 0x1240) (n := 32) (kemDecaps_length hkem) (by decide)
  exact ⟨pkeDec_isDecryption _ hcLength, t, c', (exec_decaps_of_kemDecaps hsk hc hhash hkem).trans ht, henc, hcipher,
    hkept⟩

end Sys2Proof.Machine
end

section
/-! PROOFS. Interrupts, overruns, the idle block, the frame of a command, and the two resets (spec/60_exceptions.md,
spec/70_reset_and_hazards.md). -/

namespace Sys2Proof.Machine

/-! CTRL, CMD while busy, and IRQ (R35, R425, R430). -/

theorem writeCmd_busy {s : State} (h : s.pend ≠ none) (w : Word) : writeCmd w s = { s with ovr := true } :=
  if_pos (busy_eq_true h)

/-- Settles O6: CMD is CSR word 4, and taking the event leaves PEND as it is. -/
theorem cmdWriteWhileBusyIsAnOverrun : Obligations.CmdWriteWhileBusyIsAnOverrun := by
  intro s w rest he hr hp
  have hbusy : writeCmd w { s with events := rest } = { s with events := rest, ovr := true } :=
    writeCmd_busy (s := { s with events := rest }) hp w
  exact step_csrWrite (k := 4) (by omega) rfl he hr (congrArg (·, writeOk) hbusy)

theorem writeCtrl_load {d : Word} (h : d.getLsbD 0 = false) (s : State) :
    writeCtrl d s = { s with ie := d.getLsbD 1 } := by
  rw [writeCtrl, h]
  rfl

theorem writeCtrl_softReset {d : Word} (h : d.getLsbD 0 = true) (s : State) : writeCtrl d s = softReset d s :=
  if_pos h

/-- A CTRL write as a step: CTRL is CSR word 2. -/
theorem step_writeCtrl {s : State} {d : Word} {rest : List Event} (he : s.events = .write 0x008 d :: rest)
    (hr : s.rstN = true) :
    step s = .next { writeCtrl d { s with events := rest } with resp := some writeOk } :=
  step_csrWrite (k := 2) (by omega) rfl he hr rfl

theorem irq_eq_true_iff {s : State} (hr : s.rstN = true) : irq s = true ↔ s.ie = true ∧ s.done = true := by
  simp [irq, hr]

theorem irq_of_rstN_low {s : State} (hr : s.rstN = false) : irq s = false := by
  simp [irq, hr]

/-- Settles O52. -/
theorem interruptIsIeAndDone : Obligations.InterruptIsIeAndDone := by
  intro s d rest hr
  refine ⟨irq_eq_true_iff hr, fun hd he => ?_⟩
  rw [step_writeCtrl he hr, writeCtrl_load hd]
  rfl

/-! The idle block (R437, R203). -/

theorem engineTurn_idle {s : State} (h : s.pend = none ∨ s.rstN = false) : engineTurn s = .next s := by
  rcases h with h | h <;> simp [engineTurn, h]

/-- Settles O11: either way the step is an ENGINE turn, and the event changes neither PEND nor RST_N. -/
theorem idleBlockKeepsItsState : Obligations.IdleBlockKeepsItsState := by
  intro s h
  refine ⟨fun he => ?_, fun hash rest he => ?_⟩
  · rw [step_of_no_event he, engineTurn_idle h]
  · rw [step_engine he]
    exact engineTurn_idle (s := { s with hash := hash, events := rest }) h

/-! The frame of a command (R204, R463). -/

theorem ControlKept.refl (s : State) : ControlKept s s := by
  simp [ControlKept]

/-- Before its completion a command has changed cells and result registers only, and the completion changes none of
the control and operand CSRs. -/
theorem ActsTo.controlKept_complete {i : Instr} {s u : State} (h : ActsTo i s u) : ControlKept s (complete u) := by
  rw [h.shape]
  simp [ControlKept]

/-- Settles O34: a waiting command changes nothing, and `ActsTo` says what a completed one may change. -/
theorem commandChangesOnlyItsDestinationSet : Obligations.CommandChangesOnlyItsDestinationSet := by
  intro i s t he
  rcases (exec_acts i s).next t he with ⟨rfl, -⟩ | ⟨u, rfl, ha⟩
  · exact ⟨.refl _, fun _ _ => rfl, fun _ _ => rfl⟩
  · refine ⟨ha.controlKept_complete, fun k hk => ha.pregOut k fun hin => ?_, fun a hk => ha.bmemOut a fun hin => ?_⟩
    · rw [inDestRegs_iff.2 hin] at hk
      cases hk
    · rw [inDestRegions_iff.2 hin] at hk
      cases hk

/-! The soft reset (R461 to R463). -/

theorem abort_idle {s : State} (h : s.pend = none) : abort s = s := by
  simp [abort, h]

theorem abort_pending {s : State} {w : Word} {i : Instr} (hp : s.pend = some w) (hd : decode w = .ok i) :
    abort s = undefineDest i s := by
  simp [abort, hp, hd]

/-- An abort changes the memories alone. -/
theorem abort_shape (s : State) : abort s = { s with preg := (abort s).preg, bmem := (abort s).bmem } := by
  rcases abort_cases s with h | ⟨i, h⟩ <;> rw [h]
  rfl

/-- A soft reset leaves the reset state, but for IE, the memories as the abort leaves them, and what lies outside. -/
theorem softReset_eq (d : Word) (s : State) :
    softReset d s = { State.reset with
      ie := d.getLsbD 1, preg := (abort s).preg, bmem := (abort s).bmem, rstN := s.rstN, hash := s.hash
      events := s.events, resp := s.resp } := by
  rw [softReset, resetCsrs, abort_shape]

/-- Settles O53: the step is a soft reset, whose abort is nothing on an idle block and `undefineDest` on a busy one. -/
theorem softResetAbortsAndKeepsMemory : Obligations.SoftResetAbortsAndKeepsMemory := by
  intro s d rest hr hd he
  refine ⟨_, step_writeCtrl he hr, ?_⟩
  rw [writeCtrl_softReset hd, softReset_eq]
  refine ⟨by rw [hr]; rfl, fun hp => ?_, fun w i hp hi => ?_⟩
  · have ha : abort { s with events := rest } = { s with events := rest } :=
      abort_idle (s := { s with events := rest }) hp
    rw [ha]
    exact ⟨rfl, rfl⟩
  · have ha : abort { s with events := rest } = undefineDest i { s with events := rest } :=
      abort_pending (s := { s with events := rest }) hp hi
    rw [ha]
    exact ⟨readCell_undefineDest_preg i _, readCell_undefineDest_bmem i _⟩

/-! RST_N and the hard reset (R460, R53). -/

theorem step_rstN {s : State} {level : Bool} {rest : List Event} (he : s.events = .rstN level :: rest) :
    step s = .next (driveRstN level { s with events := rest }) := by
  rw [step, turn, he]
  rfl

theorem driveRstN_kept {s : State} (hr : s.rstN = true) : driveRstN true s = s := by
  simp [driveRstN, hr]

/-- RST_N rises. -/
theorem driveRstN_rise {s : State} (hr : s.rstN = false) :
    driveRstN true s = { State.reset with hash := s.hash, events := s.events } := by
  simp [driveRstN, hr, State.reset]

/-- While RST_N is low a transaction has no response and no effect. -/
theorem hostReadTurn_rstN_low {s : State} (hr : s.rstN = false) (a : BitVec 16) :
    hostReadTurn a s = .next { s with resp := none } := by
  simp [hostReadTurn, hr]

theorem hostWriteTurn_rstN_low {s : State} (hr : s.rstN = false) (a : BitVec 16) (d : Word) :
    hostWriteTurn a d s = .next { s with resp := none } := by
  simp [hostWriteTurn, hr]

/-- Settles O54, event by event. -/
theorem hardResetLeavesTheResetState : Obligations.HardResetLeavesTheResetState := by
  intro s rest
  refine ⟨fun he hr => ?_, fun he hr => ?_, fun t he ht => ?_, fun hr => ⟨irq_of_rstN_low hr, fun a he => ?_,
    fun a d he => ?_⟩⟩
  · rw [step_rstN he, driveRstN_rise (s := { s with events := rest }) hr]
  · rw [step_rstN he, driveRstN_kept (s := { s with events := rest }) hr]
  · rw [step_rstN he] at ht
    cases ht
    exact ⟨rfl, rfl⟩
  · rw [step, turn, he]
    exact hostReadTurn_rstN_low (s := { s with events := rest }) hr a
  · rw [step, turn, he]
    exact hostWriteTurn_rstN_low (s := { s with events := rest }) hr a d

end Sys2Proof.Machine
end
